-- ==== Sys2Proof/Word.lean ====
section
/-! DEFINITION. The bit-vector types the block computes with, and the 256-bit value as four limbs
(00_scope.md R4, R5, R7). -/

namespace Sys2Proof

/-- A byte (R5). -/
abbrev Byte := BitVec 8

/-- A 64-bit limb (R4 LIMB_W). -/
abbrev Limb := BitVec 64

/-- A command word on the CMD port (R4 CMD_W, R53). -/
abbrev CmdWord := BitVec 16

/-- A 256-bit value as its four limbs, most significant first (R7, R14). -/
structure WideInt where
  l3 : Limb
  l2 : Limb
  l1 : Limb
  l0 : Limb
deriving DecidableEq, Repr

end Sys2Proof
end

