-- ==== Sys2Proof/Syntax.lean ====
section
/-! DEFINITION. The ten commands and the fields of a command word (30_encoding.md R54 to R56). -/

namespace Sys2Proof

/-- A value register number, `w0` to `w3` (R14, R55). -/
abbrev Reg := Fin 4

/-- The commands of the opcode map, one constructor per row of spec/opcode_table.json (R56). -/
inductive Instr where
  /-- NOP (R89). -/
  | nop
  /-- RANGE (R64). -/
  | range
  /-- DECOMP wd (R66). -/
  | decomp (rd : Reg)
  /-- COMPOSE ws (R68). -/
  | compose (rs1 : Reg)
  /-- LDU64 wd (R70). -/
  | ldu64 (rd : Reg)
  /-- ENC ws (R76). -/
  | enc (rs1 : Reg)
  /-- DEC wd (R78). -/
  | dec (rd : Reg)
  /-- CMP ws1, ws2 (R82). -/
  | cmp (rs1 rs2 : Reg)
  /-- PARSE wd (R86). -/
  | parse (rd : Reg)
  /-- FMT ws (R88). -/
  | fmt (rs1 : Reg)
deriving DecidableEq, Repr

/-- The fields of a command word, lowest bits first (R54). -/
structure Fields where
  op : BitVec 4
  rd : BitVec 2
  rs1 : BitVec 2
  rs2 : BitVec 2
  rsv : BitVec 6
deriving DecidableEq, Repr

end Sys2Proof
end

