-- ==== Sys2Proof/WellFormed.lean ====
section
/-! DEFINITION. When the fields of a command word are legal (30_encoding.md R58), one check per condition. The
operands of `Instr` are bounded by their type, so well-formedness is a property of fields. -/

namespace Sys2Proof

/-- Why a command word is illegal (R58 (a), (b), (c)). The block reports ILLEGAL for each alike (log entry 15). -/
inductive IllegalWord where
  /-- R58 (a): a bit of RSV is set. -/
  | reservedBits
  /-- R58 (b): OP is 0xA to 0xF. -/
  | reservedOpcode
  /-- R58 (c): a field the opcode does not use is not 0. -/
  | unusedField
deriving DecidableEq, Repr

/-- The opcodes that use RD (R56): DECOMP, LDU64, DEC, PARSE. -/
def Fields.usesRd (f : Fields) : Bool := f.op == 2 || f.op == 4 || f.op == 6 || f.op == 8

/-- The opcodes that use RS1 (R56): COMPOSE, ENC, CMP, FMT. -/
def Fields.usesRs1 (f : Fields) : Bool := f.op == 3 || f.op == 5 || f.op == 7 || f.op == 9

/-- The one opcode that uses RS2 (R56): CMP. -/
def Fields.usesRs2 (f : Fields) : Bool := f.op == 7

/-- R58 (a): the reserved bits are 0. -/
def Fields.rsvClear (f : Fields) : Bool := f.rsv == 0

/-- R58 (b): the opcode is below 0xA. -/
def Fields.opDefined (f : Fields) : Bool := f.op.toNat < 10

/-- R58 (c): every field the opcode does not use is 0. -/
def Fields.unusedClear (f : Fields) : Bool :=
  (f.usesRd || f.rd == 0) && (f.usesRs1 || f.rs1 == 0) && (f.usesRs2 || f.rs2 == 0)

/-- The fields make a legal command (R58). -/
def Fields.legal (f : Fields) : Bool := f.rsvClear && f.opDefined && f.unusedClear

end Sys2Proof
end

