-- ==== Sys2Proof/Decode.lean ====
section
/-! DEFINITION. Command words to commands and back (30_encoding.md R54 to R59). The decoder follows the mask and
match table of R57; the encoder follows the field layout of R54. -/

namespace Sys2Proof

/-- The register number in a 2-bit field, used as it stands (R55). -/
def regOf (b : BitVec 2) : Reg := ⟨b.toNat, b.isLt⟩

/-- The 2-bit field that holds a register number (R55). -/
def regBits (r : Reg) : BitVec 2 := BitVec.ofNat 2 r.val

/-- OP = cmd[3:0] (R54). -/
def opOf (c : CmdWord) : BitVec 4 := c.extractLsb' 0 4

/-- RD = cmd[5:4] (R54). -/
def rdOf (c : CmdWord) : BitVec 2 := c.extractLsb' 4 2

/-- RS1 = cmd[7:6] (R54). -/
def rs1Of (c : CmdWord) : BitVec 2 := c.extractLsb' 6 2

/-- RS2 = cmd[9:8] (R54). -/
def rs2Of (c : CmdWord) : BitVec 2 := c.extractLsb' 8 2

/-- RSV = cmd[15:10] (R54). -/
def rsvOf (c : CmdWord) : BitVec 6 := c.extractLsb' 10 6

/-- A word cut into its fields (R54). -/
def Fields.ofWord (c : CmdWord) : Fields := ⟨opOf c, rdOf c, rs1Of c, rs2Of c, rsvOf c⟩

/-- Fields laid out in a word, most significant first: RSV, RS2, RS1, RD, OP (R54). -/
def Fields.word (f : Fields) : CmdWord := f.rsv ++ f.rs2 ++ f.rs1 ++ f.rd ++ f.op

/-- One row of R57: the bits a decoder tests, their value, and the command, from rd, rs1 and rs2. -/
structure OpcodeRow where
  mask : CmdWord
  bits : CmdWord
  build : Reg → Reg → Reg → Instr

/-- The word has the row's fixed bits (R57: `cmd & mask = match`). -/
def OpcodeRow.hits (r : OpcodeRow) (c : CmdWord) : Bool := c &&& r.mask == r.bits

/-- The ten rows of R57. -/
def opcodeRows : List OpcodeRow := [
  ⟨0xFFFF, 0x0000, fun _ _ _ => .nop⟩,
  ⟨0xFFFF, 0x0001, fun _ _ _ => .range⟩,
  ⟨0xFFCF, 0x0002, fun rd _ _ => .decomp rd⟩,
  ⟨0xFF3F, 0x0003, fun _ rs1 _ => .compose rs1⟩,
  ⟨0xFFCF, 0x0004, fun rd _ _ => .ldu64 rd⟩,
  ⟨0xFF3F, 0x0005, fun _ rs1 _ => .enc rs1⟩,
  ⟨0xFFCF, 0x0006, fun rd _ _ => .dec rd⟩,
  ⟨0xFC3F, 0x0007, fun _ rs1 rs2 => .cmp rs1 rs2⟩,
  ⟨0xFFCF, 0x0008, fun rd _ _ => .parse rd⟩,
  ⟨0xFF3F, 0x0009, fun _ rs1 _ => .fmt rs1⟩]

/-- The first condition of R58 that a word no row hits fulfils. -/
def whyIllegal (c : CmdWord) : IllegalWord :=
  if (Fields.ofWord c).rsvClear = false then .reservedBits
  else if (Fields.ofWord c).opDefined = false then .reservedOpcode
  else .unusedField

/-- The command a word stands for, or why it is illegal; total on every word (R57, R58). -/
def decode (c : CmdWord) : Except IllegalWord Instr :=
  match opcodeRows.find? (·.hits c) with
  | some r => .ok (r.build (regOf (rdOf c)) (regOf (rs1Of c)) (regOf (rs2Of c)))
  | none => .error (whyIllegal c)

/-- The fields of a command, from the opcode map (R56); an unused field is 0 (R58). -/
def Instr.fields : Instr → Fields
  | .nop => ⟨0x0, 0, 0, 0, 0⟩
  | .range => ⟨0x1, 0, 0, 0, 0⟩
  | .decomp rd => ⟨0x2, regBits rd, 0, 0, 0⟩
  | .compose rs1 => ⟨0x3, 0, regBits rs1, 0, 0⟩
  | .ldu64 rd => ⟨0x4, regBits rd, 0, 0, 0⟩
  | .enc rs1 => ⟨0x5, 0, regBits rs1, 0, 0⟩
  | .dec rd => ⟨0x6, regBits rd, 0, 0, 0⟩
  | .cmp rs1 rs2 => ⟨0x7, 0, regBits rs1, regBits rs2, 0⟩
  | .parse rd => ⟨0x8, regBits rd, 0, 0, 0⟩
  | .fmt rs1 => ⟨0x9, 0, regBits rs1, 0, 0⟩

/-- A command is well formed when its fields are legal (R58). -/
def Instr.wellFormed (i : Instr) : Bool := i.fields.legal

/-- The one word of a command (R54, R59). -/
def encode (i : Instr) : CmdWord := i.fields.word

/-- The assembler name of a register (R62). -/
def regAsm (r : Reg) : String := "w" ++ toString r.val

/-- The assembler form of a command (R62). -/
def Instr.asm : Instr → String
  | .nop => "NOP"
  | .range => "RANGE"
  | .decomp rd => "DECOMP " ++ regAsm rd
  | .compose rs1 => "COMPOSE " ++ regAsm rs1
  | .ldu64 rd => "LDU64 " ++ regAsm rd
  | .enc rs1 => "ENC " ++ regAsm rs1
  | .dec rd => "DEC " ++ regAsm rd
  | .cmp rs1 rs2 => "CMP " ++ regAsm rs1 ++ ", " ++ regAsm rs2
  | .parse rd => "PARSE " ++ regAsm rd
  | .fmt rs1 => "FMT " ++ regAsm rs1

/-- The low `nbits` bits of `w` as a command word, or none for more than the 16 bits of a command (R53, R60). -/
def tableWord (nbits w : Nat) : Option CmdWord :=
  if nbits ≤ 16 then some (BitVec.ofNat 16 (w % 2 ^ nbits)) else none

/-- The decoder on a word numbered as the opcode table numbers it. -/
def decodeTableWord (nbits w : Nat) : Option Instr :=
  match tableWord nbits w with
  | some c => (decode c).toOption
  | none => none

end Sys2Proof
end

