-- ==== Sys2Proof/Machine/State.lean ====
section
/-! DEFINITION. The block's state and its host's (10_state.md R13, R29, R30; 20_memory.md R32), the state after
reset (70_reset_and_hazards.md R105), and the reasons a step can stop. -/

namespace Sys2Proof.Machine

/-- The outcomes a command reports in STATUS.ERR (R18, R91). Codes 6 and 7 are never produced. -/
inductive Err where
  /-- The command succeeded. -/
  | none
  /-- The integer is negative or at least 2^256 (DECOMP, PARSE). -/
  | range
  /-- The text is empty or holds a non-digit byte (PARSE). -/
  | parse
  /-- Fewer than 32 bytes remain on BIN_IN (DEC). -/
  | shortRead
  /-- The command word is not legal. -/
  | illegal
  /-- A source register has VALID = 0 (COMPOSE, ENC, CMP, FMT). -/
  | uninit
deriving DecidableEq, Repr

/-- What the host does next (R100): issue a command word on CMD, drive an input port, or assert reset (R105). -/
inductive HostAction where
  /-- Present a command word on CMD (R53). -/
  | issue (c : CmdWord)
  /-- Drive BIG_IN with an integer of any sign and size (R33). -/
  | driveBigIn (v : Int)
  /-- Drive U64_IN (R34). -/
  | driveU64In (u : BitVec 64)
  /-- Drive TXT_IN with a finite byte sequence (R35). -/
  | driveTxtIn (t : List Byte)
  /-- Supply a finite byte stream on BIN_IN, from its position to its end (R36; log entry 14). -/
  | driveBinIn (b : List Byte)
  /-- Assert the reset input between two commands (R105, R107). -/
  | reset
deriving DecidableEq, Repr

/-- The state of the block (R13) and of its host's ports (R32). The Options are the spec's own state (R16, R23 to
R25, R30; log entry 4): a value register with VALID = 0 and an output register before its first write
hold no value. -/
structure State where
  /-- W[0..3] with VALID[3:0]: `none` is VALID = 0 (R14 to R16, R30). -/
  w : Vector (Option WideInt) 4
  /-- STATUS: ERR[2:0], CMP[4:3], RNG[5], reserved[15:6] (R17). -/
  status : BitVec 16
  /-- CONSUMED (R22). -/
  consumed : BitVec 8
  /-- ENC_OUT (R23). -/
  encOut : Option (Vector Byte 32)
  /-- TXT_OUT (R24). -/
  txtOut : Option (Vector Byte 78)
  /-- TXT_LEN (R24). -/
  txtLen : BitVec 7
  /-- BIG_OUT (R25). -/
  bigOut : Option Nat
  /-- The port BIG_IN (R33). -/
  bigIn : Int
  /-- The port U64_IN (R34). -/
  u64In : BitVec 64
  /-- The port TXT_IN (R35). -/
  txtIn : List Byte
  /-- The bytes of BIN_IN from its position to its end (R36). -/
  binIn : List Byte
  /-- What the host does next, oldest first (R26, R100; log entry 1). -/
  pending : List HostAction
  /-- The model's own field: how many free draws were taken (log entry 6). -/
  draws : Nat
deriving DecidableEq, Repr

/-- The machine right after reset (R105); the host's ports hold the values log entry 5 names and the host has
no action pending (log entry 2). -/
def State.reset : State where
  w := Vector.replicate 4 none
  status := 0
  consumed := 0
  encOut := none
  txtOut := none
  txtLen := 0
  bigOut := none
  bigIn := 0
  u64In := 0
  txtIn := []
  binIn := []
  pending := []
  draws := 0

/-- The reasons the machine stops with a fault. There is none: every failure of the block is a result in
STATUS.ERR, after which it takes the next command (60_exceptions.md R95, R96; log entry 12). Safe: nothing is left
out by it. -/
inductive Fault
deriving DecidableEq, Repr

/-- The reasons a step has no meaning. -/
inductive Refusal where
  /-- Raised only by an arm of `exec` whose command has no meaning yet; no arm is such. Safe. -/
  | notModelled (mnemonic : String)
deriving DecidableEq, Repr

end Sys2Proof.Machine
end

