-- ==== Sys2Proof/Machine/Flags.lean ====
section
/-! DEFINITION. The STATUS register's fields, their codes, and writing one field (10_state.md R17 to R21). -/

namespace Sys2Proof.Machine

/-- The code of an outcome in STATUS.ERR (R18). -/
def Err.code : Err → BitVec 3
  | .none => 0
  | .range => 1
  | .parse => 2
  | .shortRead => 3
  | .illegal => 4
  | .uninit => 5

/-- The code of a comparison in STATUS.CMP: EQUAL 0b00, GREATER 0b01, LESS 0b11 (R19). -/
def cmpCode : Ordering → BitVec 2
  | .eq => 0b00
  | .gt => 0b01
  | .lt => 0b11

/-- STATUS.ERR, bits 2:0 (R17). -/
def statusErr (st : BitVec 16) : BitVec 3 := st.extractLsb' 0 3

/-- STATUS.CMP, bits 4:3 (R17). -/
def statusCmp (st : BitVec 16) : BitVec 2 := st.extractLsb' 3 2

/-- STATUS.RNG, bit 5 (R17). -/
def statusRng (st : BitVec 16) : BitVec 1 := st.extractLsb' 5 1

/-- STATUS bits 15:6, reserved (R17, R21). -/
def statusRsv (st : BitVec 16) : BitVec 10 := st.extractLsb' 6 10

/-- STATUS with ERR replaced; every other bit stays. -/
def withErr (st : BitVec 16) (e : BitVec 3) : BitVec 16 := st.extractLsb' 3 13 ++ e

/-- STATUS with CMP replaced; every other bit stays. -/
def withCmp (st : BitVec 16) (c : BitVec 2) : BitVec 16 := st.extractLsb' 5 11 ++ c ++ st.extractLsb' 0 3

/-- STATUS with RNG replaced; every other bit stays. -/
def withRng (st : BitVec 16) (b : BitVec 1) : BitVec 16 := st.extractLsb' 6 10 ++ b ++ st.extractLsb' 0 5

end Sys2Proof.Machine
end

