-- ==== Sys2Proof/Config.lean ====
section
/-! DEFINITION. The block's fixed parameters (00_scope.md R4) and the values the spec leaves free
(93_implementation_defined.md I1, I2). -/

namespace Sys2Proof

/-- The range ceiling CEIL = 2^256, a constant of the hardware (R4, R10, R109). -/
abbrev Config.ceil : Nat := 2 ^ 256

/-- ENC_LEN, the length of a binary encoding in bytes (R4, R71). -/
abbrev Config.encLen : Nat := 32

/-- The `n`-th free draw from which SHORT_READ takes the distance the stream moves (R78, I1; log entry 6).
It has no body: nothing can be proved of its values. -/
opaque Config.freeAdvance : Nat → Nat

/-- The `n`-th free draw of the byte CONSUMED holds after SHORT_READ (R78, I2; log entry 6). It has no body. -/
opaque Config.freeConsumed : Nat → Byte

end Sys2Proof
end

