-- ==== Sys2Proof/Machine/Operands.lean ====
section
/-! DEFINITION. The values commands compute with: integers and limbs (00_scope.md R6 to R8), byte orders (R9,
20_memory.md R38, R39) and decimal text (R11). The big-endian and the little-endian codec are written apart
(R40). -/

namespace Sys2Proof.Machine

/-- `high(w) = (l3, l2)`, bits 255 to 128 (R7). -/
def high (x : WideInt) : Nat := x.l3.toNat * 2 ^ 64 + x.l2.toNat

/-- `low(w) = (l1, l0)`, bits 127 to 0 (R7). -/
def low (x : WideInt) : Nat := x.l1.toNat * 2 ^ 64 + x.l0.toNat

/-- `val(w) = high(w) * 2^128 + low(w)` (R7). -/
def val (x : WideInt) : Nat := high x * 2 ^ 128 + low x

/-- Limb `k` of a value, `l0` to `l3` (R7). -/
def limb (x : WideInt) : Nat → Limb
  | 0 => x.l0
  | 1 => x.l1
  | 2 => x.l2
  | _ => x.l3

/-- `limbs(n)`: limb `k` is `n[64k+63 : 64k]` (R8). -/
def limbsOf (n : Nat) : WideInt where
  l3 := BitVec.ofNat 64 (n / 2 ^ 192)
  l2 := BitVec.ofNat 64 (n / 2 ^ 128)
  l1 := BitVec.ofNat 64 (n / 2 ^ 64)
  l0 := BitVec.ofNat 64 n

/-- `in_range(v)`: 0 ≤ v < 2^256 (R10). -/
def inRange (v : Int) : Bool := decide (0 ≤ v ∧ v < (Config.ceil : Int))

/-- The half-open slice `b[i:j]` (R5). -/
def slice (b : List Byte) (i j : Nat) : List Byte := (b.drop i).take (j - i)

/-- The number a byte sequence spells, first byte most significant. -/
def beNat (b : List Byte) : Nat := b.foldl (fun a x => a * 256 + x.toNat) 0

/-- The number a byte sequence spells, first byte least significant. -/
def leNat : List Byte → Nat
  | [] => 0
  | x :: b => x.toNat + 256 * leNat b

/-- `BE64(b)` of an 8-byte sequence (R9). -/
def be64 (b : List Byte) : Limb := BitVec.ofNat 64 (beNat b)

/-- `LE64(b)` of an 8-byte sequence (R9). -/
def le64 (b : List Byte) : Limb := BitVec.ofNat 64 (leNat b)

/-- `BE32B(n)`: byte `i` is `n[8(31-i)+7 : 8(31-i)]` (R9). -/
def be32B (n : Nat) : List Byte := (List.range 32).map fun i => BitVec.ofNat 8 (n / 2 ^ (8 * (31 - i)))

/-- DECOMP's decomposition: the big-endian buffer of `n` cut into four big-endian words (R38, R66). -/
def decompose (n : Nat) : WideInt :=
  let buf := be32B n
  { l3 := be64 (slice buf 0 8), l2 := be64 (slice buf 8 16),
    l1 := be64 (slice buf 16 24), l0 := be64 (slice buf 24 32) }

/-- COMPOSE's composition: the halves from their limbs, then the value from its halves (R67, R68). -/
def compose (x : WideInt) : Nat :=
  let hi := x.l3.toNat * 2 ^ 64 + x.l2.toNat
  let lo := x.l1.toNat * 2 ^ 64 + x.l0.toNat
  hi * 2 ^ 128 + lo

/-- LDU64's zero extension (R69). -/
def zeroExtend64 (u : BitVec 64) : WideInt := { l3 := 0, l2 := 0, l1 := 0, l0 := u }

/-- The wire encoding: byte `8k + j` is bits `8j+7 : 8j` of limb `k` (R39, R72, R76). -/
def encBytes (x : WideInt) : Vector Byte 32 :=
  Vector.ofFn fun i => (limb x (i.val / 8)).extractLsb' (8 * (i.val % 8)) 8

/-- `dec32(b)`: limb `k` is `LE64(b[8k : 8k+8])` (R73, R78). -/
def decBytes (b : List Byte) : WideInt :=
  { l0 := le64 (slice b 0 8), l1 := le64 (slice b 8 16),
    l2 := le64 (slice b 16 24), l3 := le64 (slice b 24 32) }

/-- One limb pair, as unsigned 64-bit numbers (R81, R82). -/
def cmpLimb (a b : Limb) : Ordering :=
  if a.toNat < b.toNat then .lt else if b.toNat < a.toNat then .gt else .eq

/-- The first unequal pair decides (R82). -/
def cmpLimbs : List (Limb × Limb) → Ordering
  | [] => .eq
  | (a, b) :: rest =>
    match cmpLimb a b with
    | .eq => cmpLimbs rest
    | r => r

/-- CMP's comparison, most significant limb first (R81, R82). -/
def cmpWide (a b : WideInt) : Ordering :=
  cmpLimbs [(a.l3, b.l3), (a.l2, b.l2), (a.l1, b.l1), (a.l0, b.l0)]

/-- A digit is a byte in 0x30..0x39 (R11). -/
def isDigit (c : Byte) : Bool := 0x30 ≤ c.toNat && c.toNat ≤ 0x39

/-- `digval(c) = c - 0x30` (R11). -/
def digval (c : Byte) : Nat := c.toNat - 0x30

/-- The digit of a number below ten (R11). -/
def digitByte (d : Nat) : Byte := BitVec.ofNat 8 (0x30 + d)

/-- A valid numeral: not empty, digits only (R85). -/
def validNumeral (t : List Byte) : Bool := !t.isEmpty && t.all isDigit

/-- `decval(t)`, first character most significant (R11). -/
def decval (t : List Byte) : Nat := t.foldl (fun n c => n * 10 + digval c) 0

/-- Digits of `n`, least significant first found, put before `acc`; at most `fuel` of them. -/
def decAux : Nat → Nat → List Byte → List Byte
  | 0, _, acc => acc
  | fuel + 1, n, acc =>
    if n < 10 then digitByte n :: acc else decAux fuel (n / 10) (digitByte (n % 10) :: acc)

/-- `dec(n)`, the shortest digit sequence of value `n` (R11): a number has no more digits than bits. -/
def decText (n : Nat) : List Byte := decAux (n.log2 + 1) n []

/-- Text in the 78-byte TXT_OUT register, 0x00 past its end (R24, R88). -/
def padText (t : List Byte) : Vector Byte 78 := Vector.ofFn fun i => t.getD i.val 0

end Sys2Proof.Machine
end

