-- ==== Sys2Proof/Machine/Ops.lean ====
section
/-! DEFINITION. The named operations over the state: registers, STATUS, the stream, the output registers, ending a
command with or without an error (60_exceptions.md R92, R94), the host's actions and reads, reset, and taking a
command (30_encoding.md R61). -/

namespace Sys2Proof.Machine

/-- `W[r] <- v`, which also sets VALID[r] (R12, R15). -/
def State.writeW (s : State) (r : Reg) (v : WideInt) : State := { s with w := s.w.set r.val (some v) }

/-- Replace the STATUS word. -/
def State.setStatus (s : State) (st : BitVec 16) : State := { s with status := st }

/-- Write CONSUMED (R22). -/
def State.setConsumed (s : State) (c : BitVec 8) : State := { s with consumed := c }

/-- Write all of ENC_OUT (R23, R44). -/
def State.setEncOut (s : State) (e : Vector Byte 32) : State := { s with encOut := some e }

/-- Write all of TXT_OUT and TXT_LEN (R24, R44, R88). -/
def State.setText (s : State) (t : List Byte) : State :=
  { s with txtOut := some (padText t), txtLen := BitVec.ofNat 7 t.length }

/-- Write BIG_OUT (R25). -/
def State.setBigOut (s : State) (n : Nat) : State := { s with bigOut := some n }

/-- The host drives BIG_IN (R33). -/
def State.setBigIn (s : State) (v : Int) : State := { s with bigIn := v }

/-- The host drives U64_IN (R34). -/
def State.setU64In (s : State) (u : BitVec 64) : State := { s with u64In := u }

/-- The host drives TXT_IN (R35). -/
def State.setTxtIn (s : State) (t : List Byte) : State := { s with txtIn := t }

/-- Replace the bytes remaining on BIN_IN (R36). -/
def State.setBinIn (s : State) (b : List Byte) : State := { s with binIn := b }

/-- Replace the host's further actions. -/
def State.setPending (s : State) (p : List HostAction) : State := { s with pending := p }

/-- Count one more free draw (log entry 6). -/
def State.nextDraw (s : State) : State := { s with draws := s.draws + 1 }

/-- `W[r]`, with `none` where VALID[r] = 0 (R16, R30). -/
def State.readW (s : State) (r : Reg) : Option WideInt := s.w[r.val]

/-- VALID[r] (R15). -/
def State.valid (s : State) (r : Reg) : Bool := (s.readW r).isSome

/-- STATUS.ERR of a state (R18). -/
def State.err (s : State) : BitVec 3 := statusErr s.status

/-- STATUS.CMP of a state (R19). -/
def State.cmp (s : State) : BitVec 2 := statusCmp s.status

/-- STATUS.RNG of a state (R20). -/
def State.rng (s : State) : BitVec 1 := statusRng s.status

/-- STATUS bits 15:6 of a state (R21). -/
def State.rsv (s : State) : BitVec 10 := statusRsv s.status

/-- `raise Err(code)`: set STATUS.ERR and end the command; nothing else is written (R12, R94, R95). -/
def State.raise (e : Err) (s : State) : State := s.setStatus (withErr s.status e.code)

/-- `STATUS.ERR <- NONE`: end a command that succeeded (R92). -/
def State.succeed (s : State) : State := s.raise .none

/-- `STATUS.CMP <- code(r)` (R82). -/
def State.setCmp (s : State) (r : Ordering) : State := s.setStatus (withCmp s.status (cmpCode r))

/-- `STATUS.RNG <- b` (R64). -/
def State.setRng (s : State) (b : Bool) : State := s.setStatus (withRng s.status (BitVec.ofBool b))

/-- Run a command on the value of a source register; with VALID = 0 it does not execute but raises UNINIT
(R16, R61). -/
def withSource (s : State) (r : Reg) (k : WideInt → Host.Outcome State Fault Refusal) :
    Host.Outcome State Fault Refusal :=
  match s.readW r with
  | none => .next (s.raise .uninit)
  | some x => k x

/-- `Avail()`: the number of bytes remaining on BIN_IN (R12, R36). -/
def State.avail (s : State) : Nat := s.binIn.length

/-- `StreamPeek(n)`: the next `n` bytes of BIN_IN (R12). -/
def State.streamPeek (s : State) (n : Nat) : List Byte := s.binIn.take n

/-- `StreamAdvance(n)`: remove the next `n` bytes from BIN_IN (R12). -/
def State.streamAdvance (s : State) (n : Nat) : State := s.setBinIn (s.binIn.drop n)

/-- The free draw `k` from 0 to `Avail()` (R37, R78, I1; log entry 6). -/
def State.drawAdvance (s : State) : Nat := Config.freeAdvance s.draws % (s.avail + 1)

/-- The free draw of CONSUMED (R78, I2; log entry 6). -/
def State.drawConsumed (s : State) : Byte := Config.freeConsumed s.draws

/-- What a short read leaves besides the error: the stream at an open position and an open CONSUMED (R37, R78). -/
def State.shortRead (s : State) : State :=
  ((s.streamAdvance s.drawAdvance).setConsumed s.drawConsumed).nextDraw

/-- Reset (R105): the block's state at its reset values. The host's ports, stream and further actions are the
host's and stay (R106; log entry 13). -/
def State.applyReset (s : State) : State :=
  { State.reset with
    bigIn := s.bigIn, u64In := s.u64In, txtIn := s.txtIn, binIn := s.binIn, pending := s.pending, draws := s.draws }

/-- The registers the host may read (R29). -/
inductive HostReg where
  | status
  | consumed
  | encOut
  | txtOut
  | txtLen
  | bigOut
deriving DecidableEq, Repr

/-- What a host read gives: a number or the bytes of an output register, byte 0 first. -/
inductive HostValue where
  | number (n : Nat)
  | bytes (b : List Byte)
deriving DecidableEq, Repr

/-- A host read between two commands: it has no side effect, so it is a function of the state (R29, R45, R48). An
output register before its first write gives no value (I4; log entry 10). -/
def hostRead (s : State) : HostReg → Option HostValue
  | .status => some (.number s.status.toNat)
  | .consumed => some (.number s.consumed.toNat)
  | .encOut => s.encOut.map fun e => .bytes e.toList
  | .txtOut => s.txtOut.map fun t => .bytes t.toList
  | .txtLen => some (.number s.txtLen.toNat)
  | .bigOut => s.bigOut.map .number

/-- What the block finds when it looks at its host. -/
inductive Taken where
  /-- The host has no action pending. -/
  | idle
  /-- The host drove a port or asserted reset, which gives this state. -/
  | acted (s : State)
  /-- The host issued a legal word, to be executed on this state. -/
  | command (i : Instr) (s : State)
  /-- The host issued an illegal word; the state before its error is written. -/
  | illegal (why : IllegalWord) (s : State)

/-- The host's oldest action, taken off the list (R26, R61, R100): the word is decoded before anything else is
read. -/
def State.take (s : State) : Taken :=
  match s.pending with
  | [] => .idle
  | .issue c :: rest =>
    match decode c with
    | .ok i => .command i (s.setPending rest)
    | .error why => .illegal why (s.setPending rest)
  | .driveBigIn v :: rest => .acted ((s.setPending rest).setBigIn v)
  | .driveU64In u :: rest => .acted ((s.setPending rest).setU64In u)
  | .driveTxtIn t :: rest => .acted ((s.setPending rest).setTxtIn t)
  | .driveBinIn b :: rest => .acted ((s.setPending rest).setBinIn b)
  | .reset :: rest => .acted ((s.setPending rest).applyReset)

/-- A word that is not legal raises ILLEGAL; nothing else is read or written (R58, R61, R94). -/
def takeIllegal (_why : IllegalWord) (s : State) : Host.Outcome State Fault Refusal := .next (s.raise .illegal)

end Sys2Proof.Machine
end

