-- ==== Sys2Proof/Machine/Codec.lean ====
section
/-! DEFINITION. The limb-to-binary encoder and the binary-to-limb decoder: ENC, DEC (41_binary_codec.md). -/

namespace Sys2Proof.Machine

/-- ENC ws (R76): the register's wire encoding in ENC_OUT. -/
def execEnc (rs1 : Reg) (s : State) : Host.Outcome State Fault Refusal :=
  withSource s rs1 fun x => .next (s.setEncOut (encBytes x)).succeed

/-- DEC wd (R78): the next 32 bytes of BIN_IN into limbs, or SHORT_READ with its two free draws. -/
def execDec (rd : Reg) (s : State) : Host.Outcome State Fault Refusal :=
  if s.avail < Config.encLen then .next (s.shortRead.raise .shortRead)
  else .next ((((s.streamAdvance Config.encLen).writeW rd (decBytes (s.streamPeek Config.encLen))).setConsumed 32).succeed)

end Sys2Proof.Machine
end

