-- ==== Sys2Proof/Machine/Comparator.lean ====
section
/-! DEFINITION. The multi-word comparator: CMP (42_compare.md). -/

namespace Sys2Proof.Machine

/-- CMP ws1, ws2 (R82): RS1's VALID bit is tested before RS2's (R61). -/
def execCmp (rs1 rs2 : Reg) (s : State) : Host.Outcome State Fault Refusal :=
  withSource s rs1 fun a => withSource s rs2 fun b => .next (s.setCmp (cmpWide a b)).succeed

end Sys2Proof.Machine
end

