-- ==== Sys2Proof/Machine/Control.lean ====
section
/-! DEFINITION. The control command NOP (44_control.md). -/

namespace Sys2Proof.Machine

/-- NOP (R89): ERR becomes NONE, nothing else changes. -/
def execNop (s : State) : Host.Outcome State Fault Refusal := .next s.succeed

end Sys2Proof.Machine
end

