-- ==== Sys2Proof/Machine/Decimal.lean ====
section
/-! DEFINITION. The decimal-to-limb parser and the limb-to-decimal formatter: PARSE, FMT (43_decimal_codec.md). -/

namespace Sys2Proof.Machine

/-- PARSE wd (R86): the whole of TXT_IN is checked first (PARSE), then its value's range (RANGE). -/
def execParse (rd : Reg) (s : State) : Host.Outcome State Fault Refusal :=
  if validNumeral s.txtIn then
    if decval s.txtIn < Config.ceil then .next (s.writeW rd (limbsOf (decval s.txtIn))).succeed
    else .next (s.raise .range)
  else .next (s.raise .parse)

/-- FMT ws (R88): the register's shortest decimal text in TXT_OUT, its length in TXT_LEN. -/
def execFmt (rs1 : Reg) (s : State) : Host.Outcome State Fault Refusal :=
  withSource s rs1 fun x => .next (s.setText (decText (val x))).succeed

end Sys2Proof.Machine
end

