-- ==== Sys2Proof/Machine/Decomposer.lean ====
section
/-! DEFINITION. The big-integer-to-limb decomposer: RANGE, DECOMP, COMPOSE, LDU64 (40_interop.md). -/

namespace Sys2Proof.Machine

/-- RANGE (R64): RNG reports whether BIG_IN is in range; the command never fails on its operand. -/
def execRange (s : State) : Host.Outcome State Fault Refusal := .next (s.setRng (inRange s.bigIn)).succeed

/-- DECOMP wd (R66): BIG_IN into limbs, or RANGE. -/
def execDecomp (rd : Reg) (s : State) : Host.Outcome State Fault Refusal :=
  if inRange s.bigIn then .next (s.writeW rd (decompose s.bigIn.toNat)).succeed
  else .next (s.raise .range)

/-- COMPOSE ws (R68): the register's value on BIG_OUT. -/
def execCompose (rs1 : Reg) (s : State) : Host.Outcome State Fault Refusal :=
  withSource s rs1 fun x => .next (s.setBigOut (compose x)).succeed

/-- LDU64 wd (R70): U64_IN zero-extended. -/
def execLdu64 (rd : Reg) (s : State) : Host.Outcome State Fault Refusal :=
  .next (s.writeW rd (zeroExtend64 s.u64In)).succeed

end Sys2Proof.Machine
end

