-- ==== Sys2Proof/Machine/Dispatch.lean ====
section
/-! DEFINITION. One arm per command: the dispatch to its meaning. -/

namespace Sys2Proof.Machine

def exec (i : Instr) (s : State) : Host.Outcome State Fault Refusal :=
  match i with
  | .nop => Sys2Proof.Machine.execNop s
  | .range => Sys2Proof.Machine.execRange s
  | .decomp rd => Sys2Proof.Machine.execDecomp rd s
  | .compose rs1 => Sys2Proof.Machine.execCompose rs1 s
  | .ldu64 rd => Sys2Proof.Machine.execLdu64 rd s
  | .enc rs1 => Sys2Proof.Machine.execEnc rs1 s
  | .dec rd => Sys2Proof.Machine.execDec rd s
  | .cmp rs1 rs2 => Sys2Proof.Machine.execCmp rs1 rs2 s
  | .parse rd => Sys2Proof.Machine.execParse rd s
  | .fmt rs1 => Sys2Proof.Machine.execFmt rs1 s

end Sys2Proof.Machine
end

