-- ==== Sys2Proof/Machine/Step.lean ====
section
/-! DEFINITION. One step: the host's oldest action is taken; a command it issued is executed as one atomic
transition (30_encoding.md R61, 70_reset_and_hazards.md R110). -/

namespace Sys2Proof.Machine

/-- One step. With no action pending the block waits for its host and nothing changes (R26; log entry 3). -/
def step (s : State) : Host.Outcome State Fault Refusal :=
  match s.take with
  | .idle => .next s
  | .acted t => .next t
  | .command i t => exec i t
  | .illegal why t => takeIllegal why t

/-- The state with a word, numbered as the opcode table numbers it, issued by the host as its next action (log entry 2). -/
def State.withFetchWord (s : State) (nbits w : Nat) : State :=
  match tableWord nbits w with
  | some c => s.setPending (.issue c :: s.pending)
  | none => s

end Sys2Proof.Machine
end

