-- ==== Sys2Proof/Safety.lean ====
section
/-! DEFINITION. The terms claims are stated in: the items of the state and what leaves them unchanged, the commands'
sources, destinations and written items (30_encoding.md R56), the invariant of the block, and the spec's numeric
notation (00_scope.md R7, R9, R11) written without the model's own operations. -/

namespace Sys2Proof.Machine

/-- The separate pieces of the state a frame names: one per register of R29, STATUS by fields (R17). -/
inductive StateItem where
  | w (r : Reg)
  | err
  | cmp
  | rng
  | rsv
  | consumed
  | encOut
  | txt
  | bigOut
  | bigIn
  | u64In
  | txtIn
  | binIn
  | pending
  | draws
deriving DecidableEq, Repr

/-- Two states hold the same in one item; for a value register that includes its VALID bit. -/
def StateItem.Same (x : StateItem) (s t : State) : Prop :=
  match x with
  | .w r => t.w[r.val] = s.w[r.val]
  | .err => t.status.extractLsb' 0 3 = s.status.extractLsb' 0 3
  | .cmp => t.status.extractLsb' 3 2 = s.status.extractLsb' 3 2
  | .rng => t.status.extractLsb' 5 1 = s.status.extractLsb' 5 1
  | .rsv => t.status.extractLsb' 6 10 = s.status.extractLsb' 6 10
  | .consumed => t.consumed = s.consumed
  | .encOut => t.encOut = s.encOut
  | .txt => t.txtOut = s.txtOut ∧ t.txtLen = s.txtLen
  | .bigOut => t.bigOut = s.bigOut
  | .bigIn => t.bigIn = s.bigIn
  | .u64In => t.u64In = s.u64In
  | .txtIn => t.txtIn = s.txtIn
  | .binIn => t.binIn = s.binIn
  | .pending => t.pending = s.pending
  | .draws => t.draws = s.draws

/-- Everything but the listed items is the same in `t` as in `s`. -/
def UnchangedExcept (changed : List StateItem) (s t : State) : Prop :=
  ∀ x : StateItem, x ∉ changed → x.Same s t

/-- The value registers a command reads, in the order R61 tests them (R56). -/
def sources : Instr → List Reg
  | .compose rs1 | .enc rs1 | .fmt rs1 => [rs1]
  | .cmp rs1 rs2 => [rs1, rs2]
  | .nop | .range | .decomp _ | .ldu64 _ | .dec _ | .parse _ => []

/-- The value register a command writes (R56). -/
def dests : Instr → List Reg
  | .decomp rd | .ldu64 rd | .dec rd | .parse rd => [rd]
  | .nop | .range | .compose _ | .enc _ | .cmp _ _ | .fmt _ => []

/-- The column "writes" of the opcode map (R56); DEC's free draws are counted too (log entry 6). -/
def writes : Instr → List StateItem
  | .nop => [.err]
  | .range => [.rng, .err]
  | .decomp rd => [.w rd, .err]
  | .compose _ => [.bigOut, .err]
  | .ldu64 rd => [.w rd, .err]
  | .enc _ => [.encOut, .err]
  | .dec rd => [.w rd, .consumed, .binIn, .err, .draws]
  | .cmp _ _ => [.cmp, .err]
  | .parse rd => [.w rd, .err]
  | .fmt _ => [.txt, .err]

/-- The fields of a word as numbers (R54). -/
def opNum (c : CmdWord) : Nat := c.toNat % 16

/-- RD as a number (R54). -/
def rdNum (c : CmdWord) : Nat := c.toNat / 16 % 4

/-- RS1 as a number (R54). -/
def rs1Num (c : CmdWord) : Nat := c.toNat / 64 % 4

/-- RS2 as a number (R54). -/
def rs2Num (c : CmdWord) : Nat := c.toNat / 256 % 4

/-- The three conditions of R58, on the word's fields as numbers: a reserved bit is set, the opcode is reserved, or a
field the opcode does not use (R56) is not 0. -/
def WordIllegal (c : CmdWord) : Prop :=
  c.toNat / 1024 ≠ 0 ∨ 10 ≤ opNum c ∨
  ((opNum c = 0 ∨ opNum c = 1) ∧ (rdNum c ≠ 0 ∨ rs1Num c ≠ 0 ∨ rs2Num c ≠ 0)) ∨
  ((opNum c = 2 ∨ opNum c = 4 ∨ opNum c = 6 ∨ opNum c = 8) ∧ (rs1Num c ≠ 0 ∨ rs2Num c ≠ 0)) ∨
  ((opNum c = 3 ∨ opNum c = 5 ∨ opNum c = 9) ∧ (rdNum c ≠ 0 ∨ rs2Num c ≠ 0)) ∨
  (opNum c = 7 ∧ rdNum c ≠ 0)

/-- The mask and match columns of R57. -/
def r57Rows : List (CmdWord × CmdWord) := [
  (0xFFFF, 0x0000), (0xFFFF, 0x0001), (0xFFCF, 0x0002), (0xFF3F, 0x0003), (0xFFCF, 0x0004),
  (0xFF3F, 0x0005), (0xFFCF, 0x0006), (0xFC3F, 0x0007), (0xFFCF, 0x0008), (0xFF3F, 0x0009)]

/-- The value of four limbs, as one sum (R7). -/
def valueOf (x : WideInt) : Nat :=
  x.l3.toNat * 2 ^ 192 + x.l2.toNat * 2 ^ 128 + x.l1.toNat * 2 ^ 64 + x.l0.toNat

/-- Byte `i` of a sequence as a number, 0 past its end. -/
def byteAt (b : List Byte) (i : Nat) : Nat := (b.getD i 0).toNat

/-- The sum that `LE64` of the eight bytes from byte `i` on stands for (R9). -/
def le64Sum (b : List Byte) (i : Nat) : Nat := ∑ j ∈ Finset.range 8, byteAt b (i + j) * 2 ^ (8 * j)

/-- The sum that `BE64` of the eight bytes from byte `i` on stands for (R9). -/
def be64Sum (b : List Byte) (i : Nat) : Nat := ∑ j ∈ Finset.range 8, byteAt b (i + j) * 2 ^ (8 * (7 - j))

/-- Every byte is in 0x30..0x39 and there is one: the valid numerals of R85. -/
def IsNumeral (t : List Byte) : Prop := t ≠ [] ∧ ∀ c ∈ t, 0x30 ≤ c.toNat ∧ c.toNat ≤ 0x39

/-- The sum that defines `decval` (R11). -/
def decSum (t : List Byte) : Nat :=
  ∑ i ∈ Finset.range t.length, (byteAt t i - 0x30) * 10 ^ (t.length - 1 - i)

/-- The 78 bytes hold a decimal text of `n` characters without leading zeros, and 0x00 past it (R24, R87). -/
def HoldsText (b : Vector Byte 78) (n : Nat) : Prop :=
  1 ≤ n ∧ n ≤ 78 ∧
  (∀ i : Fin 78, if i.val < n then 0x30 ≤ b[i.val].toNat ∧ b[i.val].toNat ≤ 0x39 else b[i.val] = 0) ∧
  (b[0] = 0x30 → n = 1)

/-- The code a CMP of two registers leaves in STATUS.CMP, if it succeeds (R82). -/
def cmpResult (s : State) (r1 r2 : Reg) : Option (BitVec 2) :=
  match exec (.cmp r1 r2) s with
  | .next t => if t.err = 0 then some t.cmp else none
  | _ => none

/-- What every run of the block keeps: ERR and CMP hold codes the spec names (R17 to R19), the reserved bits are 0
(R21), BIG_OUT is below 2^256 (R25), and TXT_OUT with TXT_LEN hold a decimal text or nothing (R24). -/
structure State.Inv (s : State) : Prop where
  errLegal : s.err.toNat ≤ 5
  cmpLegal : s.cmp ≠ 0b10
  rsvZero : s.rsv = 0
  bigOutRange : ∀ n, s.bigOut = some n → n < 2 ^ 256
  textNone : s.txtOut = none → s.txtLen = 0
  textSome : ∀ b, s.txtOut = some b → HoldsText b s.txtLen.toNat

end Sys2Proof.Machine
end

