-- ==== Sys2Proof/Certificates/Slice0/Obligations.lean ====
section
/-! DEFINITION. The statements for the provers. Each is about the model for every state and operand; rules R<n> are
those of spec/. -/

open Sys2Proof Sys2Proof.Machine

/-! ### Encoding -/

/-- Derived from R54 to R59: decoding and encoding are inverse to each other on every word and every command, so every
command has one word and no bit of a word is dropped. -/
def Obligations.DecodeExactlyInvertsEncode : Prop :=
  ∀ (c : CmdWord) (i : Instr), decode c = .ok i ↔ c = encode i

/-- R54: the layout of the command word, in both directions. -/
def Obligations.WordFieldLayout : Prop :=
  (∀ f : Fields, f.word.toNat =
      f.rsv.toNat * 2 ^ 10 + f.rs2.toNat * 2 ^ 8 + f.rs1.toNat * 2 ^ 6 + f.rd.toNat * 2 ^ 4 + f.op.toNat) ∧
  (∀ c : CmdWord, (Fields.ofWord c).word = c) ∧
  (∀ f : Fields, Fields.ofWord f.word = f)

/-- Derived from the table of R57 (the spec marks its derivation as its own) and R55: each command's words are those
its mask and match admit, and its operands are the bits of its fields as they stand. -/
def Obligations.DecoderFollowsMaskAndMatch : Prop :=
  ∀ c : CmdWord,
    (decode c = .ok .nop ↔ c &&& 0xFFFF = 0x0000) ∧
    (decode c = .ok .range ↔ c &&& 0xFFFF = 0x0001) ∧
    (∀ rd, decode c = .ok (.decomp rd) ↔ c &&& 0xFFCF = 0x0002 ∧ rdNum c = rd.val) ∧
    (∀ rs1, decode c = .ok (.compose rs1) ↔ c &&& 0xFF3F = 0x0003 ∧ rs1Num c = rs1.val) ∧
    (∀ rd, decode c = .ok (.ldu64 rd) ↔ c &&& 0xFFCF = 0x0004 ∧ rdNum c = rd.val) ∧
    (∀ rs1, decode c = .ok (.enc rs1) ↔ c &&& 0xFF3F = 0x0005 ∧ rs1Num c = rs1.val) ∧
    (∀ rd, decode c = .ok (.dec rd) ↔ c &&& 0xFFCF = 0x0006 ∧ rdNum c = rd.val) ∧
    (∀ rs1 rs2, decode c = .ok (.cmp rs1 rs2) ↔
      c &&& 0xFC3F = 0x0007 ∧ rs1Num c = rs1.val ∧ rs2Num c = rs2.val) ∧
    (∀ rd, decode c = .ok (.parse rd) ↔ c &&& 0xFFCF = 0x0008 ∧ rdNum c = rd.val) ∧
    (∀ rs1, decode c = .ok (.fmt rs1) ↔ c &&& 0xFF3F = 0x0009 ∧ rs1Num c = rs1.val)

/-- R58, but for its count of words, an inference of the spec's own (the next statement): a word is illegal exactly
when (a), (b) or (c) holds, legal exactly when it matches a row of R57, and issuing an illegal one raises ILLEGAL
whatever the registers and ports hold, and changes nothing else. -/
def Obligations.IllegalWordRaisesIllegal : Prop :=
  (∀ c : CmdWord, (∃ why, decode c = .error why) ↔ WordIllegal c) ∧
  (∀ c : CmdWord, ¬ WordIllegal c ↔ ∃ p ∈ r57Rows, c &&& p.1 = p.2) ∧
  (∀ (s : State) (c : CmdWord) (rest : List HostAction), s.pending = .issue c :: rest → WordIllegal c →
    ∃ t, step s = .next t ∧ t.err = 4 ∧ t.pending = rest ∧ UnchangedExcept [.err, .pending] s t)

/-- Rests on the spec's own inference in R58: "1 + 1 + 7·4 + 16 = 46" of the words are legal, said
of the decoder: they are the words it reads a command from. -/
def Obligations.FortySixWordsAreLegal : Prop :=
  ∃ l : List CmdWord, l.Nodup ∧ l.length = 46 ∧ ∀ c, c ∈ l ↔ ∃ i : Instr, decode c = .ok i

/-- R59: every command has exactly one encoding, and the opcodes 0xA to 0xF are ILLEGAL, not no-ops. -/
def Obligations.ReservedOpcodesAreIllegal : Prop :=
  (∀ i : Instr, ∃! c : CmdWord, decode c = .ok i) ∧
  (∀ (s : State) (c : CmdWord) (rest : List HostAction), s.pending = .issue c :: rest → 10 ≤ opNum c →
    ∃ t, step s = .next t ∧ t.err = 4 ∧ UnchangedExcept [.err, .pending] s t)

/-- Words written out from R54 and R56, one of each family, decode to their commands (derived: the words are those of
95_test_vectors.md), and two illegal words are refused. Under which of the names reservedBits, reservedOpcode and
unusedField a word is refused, and that the reserved bits are tested first where several conditions of R58 hold, as in
0x0417, is the model's DESIGN CHOICE (log entry 15) and no rule of the spec. -/
def Obligations.SampleWordsDecode : Prop :=
  decode 0x0000 = .ok .nop ∧ decode 0x0032 = .ok (.decomp 3) ∧ decode 0x0083 = .ok (.compose 2) ∧
  decode 0x00C5 = .ok (.enc 3) ∧ decode 0x0016 = .ok (.dec 1) ∧ decode 0x0107 = .ok (.cmp 0 1) ∧
  decode 0x0028 = .ok (.parse 2) ∧ decode 0x0049 = .ok (.fmt 1) ∧
  decode 0x0417 = .error .reservedBits ∧ decode 0x0105 = .error .unusedField

/-! ### The step, the host and reset -/

/-- Derived from R26 and R61 (log entry 1): when the host's next action issues a word that decodes to `i`, the step is
`exec` of `i` on the state with that action taken off; a step adds nothing else. -/
def Obligations.StepRunsTheDecodedCommand : Prop :=
  ∀ (s : State) (c : CmdWord) (rest : List HostAction) (i : Instr),
    s.pending = .issue c :: rest → decode c = .ok i → step s = exec i { s with pending := rest }

/-- Derived (log entry 2): a command's word placed as the host's next action is what the next step runs, in every
state. -/
def Obligations.PlacedWordRunsNext : Prop :=
  ∀ (s : State) (i : Instr), step (s.withFetchWord 16 (encode i).toNat) = exec i s

/-- Derived from R58 ("the decoder is total") and R96 (after an error the block takes the next command): every command
completes in every state, and so does every step. -/
def Obligations.EveryStepAnswersANextState : Prop :=
  (∀ (i : Instr) (s : State), ∃ t, exec i s = .next t) ∧ (∀ s : State, ∃ t, step s = .next t)

/-- Derived from R29, R32 and R100; that a step with no action pending changes nothing is the model's reading (log
entry 3). The host's other actions change the one port they drive. -/
def Obligations.HostActionsLeaveTheBlockAlone : Prop :=
  (∀ s : State, s.pending = [] → ∃ t, step s = .next t ∧ UnchangedExcept [] s t) ∧
  (∀ (s : State) (rest : List HostAction) (v : Int), s.pending = .driveBigIn v :: rest →
    ∃ t, step s = .next t ∧ t.bigIn = v ∧ t.pending = rest ∧ UnchangedExcept [.bigIn, .pending] s t) ∧
  (∀ (s : State) (rest : List HostAction) (u : BitVec 64), s.pending = .driveU64In u :: rest →
    ∃ t, step s = .next t ∧ t.u64In = u ∧ t.pending = rest ∧ UnchangedExcept [.u64In, .pending] s t) ∧
  (∀ (s : State) (rest : List HostAction) (x : List Byte), s.pending = .driveTxtIn x :: rest →
    ∃ t, step s = .next t ∧ t.txtIn = x ∧ t.pending = rest ∧ UnchangedExcept [.txtIn, .pending] s t) ∧
  (∀ (s : State) (rest : List HostAction) (b : List Byte), s.pending = .driveBinIn b :: rest →
    ∃ t, step s = .next t ∧ t.binIn = b ∧ t.pending = rest ∧ UnchangedExcept [.binIn, .pending] s t)

/-- The values R105 gives the block after reset. -/
def AtResetValues (t : State) : Prop :=
  (∀ r : Reg, t.valid r = false) ∧ t.err = 0 ∧ t.cmp = 0 ∧ t.rng = 0 ∧ t.rsv = 0 ∧ t.consumed = 0 ∧
  t.encOut = none ∧ t.txtLen = 0 ∧ t.txtOut = none ∧ t.bigOut = none

/-- R105 and R106: asserting reset leaves the reset values in the block, and the ports, the stream and what the host
does next as they were; `State.reset` holds the same values. -/
def Obligations.ResetLeavesTheResetState : Prop :=
  AtResetValues State.reset ∧
  (∀ (s : State) (rest : List HostAction), s.pending = .reset :: rest →
    ∃ t, step s = .next t ∧ AtResetValues t ∧ t.pending = rest ∧
      UnchangedExcept [.w 0, .w 1, .w 2, .w 3, .err, .cmp, .rng, .rsv, .consumed, .encOut, .txt, .bigOut, .pending] s t)

/-! ### Invariants -/

/-- Derived from R17 to R19, R21, R24 and R25: every step from a state that meets the invariant gives one that meets
it, in every state, reached or not. -/
def Obligations.StateInvariantIsKept : Prop :=
  ∀ s t : State, s.Inv → step s = .next t → t.Inv

/-- Derived from R105: the state after reset meets the invariant. -/
def Obligations.ResetMeetsStateInvariant : Prop := State.reset.Inv

/-- R21: the reserved bits of STATUS read as 0 at all times (at reset, and kept by every step), and no command writes
them. -/
def Obligations.ReservedStatusBitsStayZero : Prop :=
  State.reset.rsv = 0 ∧
  ∀ s t : State, step s = .next t →
    (s.rsv = 0 → t.rsv = 0) ∧ (∀ c rest, s.pending = .issue c :: rest → t.rsv = s.rsv)

/-- Derived from R17 and R29 (host reads as a function: log entry 10): a host read of STATUS gives ERR, CMP, RNG and
the reserved bits at the layout's places. -/
def Obligations.HostReadOfStatusShowsItsFields : Prop :=
  ∀ s : State, hostRead s .status =
    some (.number (s.err.toNat + 8 * s.cmp.toNat + 32 * s.rng.toNat + 64 * s.rsv.toNat))

/-! ### Control -/

/-- R89: NOP's one word, its effect and its frame. -/
def Obligations.NopClearsErr : Prop :=
  (∀ s : State, ∃ t, exec .nop s = .next t ∧ t.err = 0 ∧ UnchangedExcept [.err] s t) ∧
  (∀ c : CmdWord, decode c = .ok .nop ↔ c = 0x0000) ∧
  (∀ c : CmdWord, opNum c = 0 → c ≠ 0 → ∃ why, decode c = .error why)

/-! ### The decomposer -/

/-- R64: RANGE reports the range predicate of BIG_IN in RNG and never fails. -/
def Obligations.RangeReportsThePredicate : Prop :=
  ∀ s : State, ∃ t, exec .range s = .next t ∧
    t.rng = (if 0 ≤ s.bigIn ∧ s.bigIn < 2 ^ 256 then 1 else 0) ∧ t.err = 0 ∧ UnchangedExcept [.rng, .err] s t

/-- R66: DECOMP writes the four big-endian words of the big-endian 32-byte image of BIG_IN, or raises RANGE. -/
def Obligations.DecompWritesTheBigEndianWords : Prop :=
  ∀ (s : State) (rd : Reg),
    ((0 ≤ s.bigIn ∧ s.bigIn < 2 ^ 256) → ∃ t x, exec (.decomp rd) s = .next t ∧ t.w[rd.val] = some x ∧
      (∃ buf : List Byte, buf.length = 32 ∧
        (∀ i < 32, byteAt buf i = s.bigIn.toNat / 2 ^ (8 * (31 - i)) % 256) ∧
        x.l3.toNat = be64Sum buf 0 ∧ x.l2.toNat = be64Sum buf 8 ∧
        x.l1.toNat = be64Sum buf 16 ∧ x.l0.toNat = be64Sum buf 24) ∧
      t.err = 0 ∧ UnchangedExcept [.w rd, .err] s t) ∧
    ((s.bigIn < 0 ∨ 2 ^ 256 ≤ s.bigIn) → ∃ t, exec (.decomp rd) s = .next t ∧ t.err = 1 ∧
      UnchangedExcept [.err] s t)

/-- Rests on the spec's own inference in R65: "they equal limbs(v)", so "val(W[rd]) = v" after a successful DECOMP. -/
def Obligations.DecompValueIsBigIn : Prop :=
  ∀ (s : State) (rd : Reg), 0 ≤ s.bigIn → s.bigIn < 2 ^ 256 →
    ∃ t x, exec (.decomp rd) s = .next t ∧ t.w[rd.val] = some x ∧ (valueOf x : Int) = s.bigIn ∧
      x.l3.toNat = s.bigIn.toNat / 2 ^ 192 ∧ x.l2.toNat = s.bigIn.toNat / 2 ^ 128 % 2 ^ 64 ∧
      x.l1.toNat = s.bigIn.toNat / 2 ^ 64 % 2 ^ 64 ∧ x.l0.toNat = s.bigIn.toNat % 2 ^ 64

/-- R67 and R68 (but for R68's round trip, an inference of the spec's own: the next statement): COMPOSE joins the halves
of a valid register in BIG_OUT, in [0, 2^256 - 1]; else UNINIT. -/
def Obligations.ComposeJoinsTheHalves : Prop :=
  ∀ (s : State) (rs1 : Reg),
    (∀ x, s.w[rs1.val] = some x → ∃ t n, exec (.compose rs1) s = .next t ∧ t.bigOut = some n ∧
      n = (x.l3.toNat * 2 ^ 64 + x.l2.toNat) * 2 ^ 128 + (x.l1.toNat * 2 ^ 64 + x.l0.toNat) ∧ n ≤ 2 ^ 256 - 1 ∧
      t.err = 0 ∧ UnchangedExcept [.bigOut, .err] s t) ∧
    (s.w[rs1.val] = none → ∃ t, exec (.compose rs1) s = .next t ∧ t.err = 5 ∧ UnchangedExcept [.err] s t)

/-- Rests on the spec's own inference in R68: "a DECOMP of v into wd followed by COMPOSE wd gives BIG_OUT = v". -/
def Obligations.DecompThenComposeGivesBigIn : Prop :=
  ∀ (s : State) (rd : Reg), 0 ≤ s.bigIn → s.bigIn < 2 ^ 256 →
    ∃ t u n, exec (.decomp rd) s = .next t ∧ exec (.compose rd) t = .next u ∧ u.err = 0 ∧
      u.bigOut = some n ∧ (n : Int) = s.bigIn

/-- R69 and R70: LDU64 zero-extends U64_IN and always succeeds. -/
def Obligations.Ldu64ZeroExtends : Prop :=
  ∀ (s : State) (rd : Reg), ∃ t x, exec (.ldu64 rd) s = .next t ∧ t.w[rd.val] = some x ∧
    x.l3 = 0 ∧ x.l2 = 0 ∧ x.l1 = 0 ∧ x.l0 = s.u64In ∧ valueOf x = s.u64In.toNat ∧
    t.err = 0 ∧ UnchangedExcept [.w rd, .err] s t

/-! ### The binary codec -/

/-- R71, R75 and R76: ENC writes the limbs in the order l0, l1, l2, l3, each least significant byte first, in exactly
32 bytes; else UNINIT. -/
def Obligations.EncWritesTheLimbsLittleEndian : Prop :=
  ∀ (s : State) (rs1 : Reg),
    (∀ x, s.w[rs1.val] = some x → ∃ t e, exec (.enc rs1) s = .next t ∧ t.encOut = some e ∧
      e.toList.length = 32 ∧
      (∀ j < 8, byteAt e.toList j = x.l0.toNat / 2 ^ (8 * j) % 256 ∧
        byteAt e.toList (8 + j) = x.l1.toNat / 2 ^ (8 * j) % 256 ∧
        byteAt e.toList (16 + j) = x.l2.toNat / 2 ^ (8 * j) % 256 ∧
        byteAt e.toList (24 + j) = x.l3.toNat / 2 ^ (8 * j) % 256) ∧
      t.err = 0 ∧ UnchangedExcept [.encOut, .err] s t) ∧
    (s.w[rs1.val] = none → ∃ t, exec (.enc rs1) s = .next t ∧ t.err = 5 ∧ UnchangedExcept [.err] s t)

/-- Rests on the spec's own inferences in R40 and R72: the encoding is the 32-byte little-endian image of the value,
and the decomposer's big-endian image of the value in reverse byte order. -/
def Obligations.EncodingIsTheLittleEndianImage : Prop :=
  ∀ x : WideInt,
    (∀ i < 32, byteAt (encBytes x).toList i = valueOf x / 2 ^ (8 * i) % 256) ∧
    (encBytes x).toList = (be32B (valueOf x)).reverse

/-- R77 and R78: DEC takes the next 32 bytes, limb by limb and little-endian, and advances the stream by exactly 32;
with fewer it raises SHORT_READ, writes no register, and leaves CONSUMED and the position open (the position within
the stream). The frame of a short read also names the model's own draw counter (log entry 6). -/
def Obligations.DecReadsThirtyTwoBytes : Prop :=
  ∀ (s : State) (rd : Reg),
    (32 ≤ s.binIn.length → ∃ t x, exec (.dec rd) s = .next t ∧ t.w[rd.val] = some x ∧
      x.l0.toNat = le64Sum s.binIn 0 ∧ x.l1.toNat = le64Sum s.binIn 8 ∧
      x.l2.toNat = le64Sum s.binIn 16 ∧ x.l3.toNat = le64Sum s.binIn 24 ∧
      t.consumed = 32 ∧ t.binIn = s.binIn.drop 32 ∧ t.err = 0 ∧
      UnchangedExcept [.w rd, .consumed, .binIn, .err] s t) ∧
    (s.binIn.length < 32 → ∃ t, exec (.dec rd) s = .next t ∧ (∃ k ≤ s.binIn.length, t.binIn = s.binIn.drop k) ∧
      t.err = 3 ∧ UnchangedExcept [.consumed, .binIn, .err, .draws] s t)

/-- R73: the value DEC writes is the little-endian sum of the 32 bytes, whatever they are, and DEC never raises
RANGE. -/
def Obligations.DecValueIsTheByteSum : Prop :=
  (∀ (s : State) (rd : Reg), 32 ≤ s.binIn.length → ∃ t x, exec (.dec rd) s = .next t ∧ t.w[rd.val] = some x ∧
    x.l0.toNat = le64Sum s.binIn 0 ∧ x.l1.toNat = le64Sum s.binIn 8 ∧
    x.l2.toNat = le64Sum s.binIn 16 ∧ x.l3.toNat = le64Sum s.binIn 24 ∧
    valueOf x = ∑ i ∈ Finset.range 32, byteAt s.binIn i * 2 ^ (8 * i)) ∧
  (∀ (s t : State) (rd : Reg), exec (.dec rd) s = .next t → t.err ≠ 1)

/-- Rests on the spec's own inference in R74 (the round trips of the source): ENC then DEC gives the register's value
back, and DEC then ENC gives the bytes back. -/
def Obligations.BinaryCodecRoundTrips : Prop :=
  (∀ (s : State) (ws wd : Reg) (x : WideInt) (more : List Byte), s.w[ws.val] = some x →
    ∃ t e u, exec (.enc ws) s = .next t ∧ t.encOut = some e ∧
      exec (.dec wd) { t with binIn := e.toList ++ more } = .next u ∧
      u.w[wd.val] = some x ∧ u.consumed = 32 ∧ u.binIn = more ∧ u.err = 0) ∧
  (∀ (s : State) (rd : Reg), 32 ≤ s.binIn.length →
    ∃ t u e, exec (.dec rd) s = .next t ∧ exec (.enc rd) t = .next u ∧ u.encOut = some e ∧
      e.toList = s.binIn.take 32 ∧ u.err = 0)

/-- R37: the position of BIN_IN is changed only by DEC: by 32 where it succeeds, by an open distance within the
stream where it raises SHORT_READ, and not by an illegal word or another command. -/
def Obligations.OnlyDecMovesTheStream : Prop :=
  ∀ (s t : State) (c : CmdWord) (rest : List HostAction), s.pending = .issue c :: rest → step s = .next t →
    ((∃ rd, decode c = .ok (.dec rd)) →
      (t.err = 0 ∧ 32 ≤ s.binIn.length ∧ t.binIn = s.binIn.drop 32) ∨
      (t.err = 3 ∧ s.binIn.length < 32 ∧ ∃ k ≤ s.binIn.length, t.binIn = s.binIn.drop k)) ∧
    ((¬ ∃ rd, decode c = .ok (.dec rd)) → t.binIn = s.binIn)

/-! ### The comparator -/

/-- R82: CMP compares limb by limb from the most significant, unsigned; the first unequal pair decides. With a source
not valid it raises UNINIT. -/
def Obligations.CmpFirstUnequalLimbDecides : Prop :=
  ∀ (s : State) (rs1 rs2 : Reg),
    (∀ a b, s.w[rs1.val] = some a → s.w[rs2.val] = some b →
      ∃ t, exec (.cmp rs1 rs2) s = .next t ∧
        t.cmp = (if a.l3 = b.l3 then
            if a.l2 = b.l2 then
              if a.l1 = b.l1 then
                if a.l0 = b.l0 then 0b00 else if a.l0.toNat < b.l0.toNat then 0b11 else 0b01
              else if a.l1.toNat < b.l1.toNat then 0b11 else 0b01
            else if a.l2.toNat < b.l2.toNat then 0b11 else 0b01
          else if a.l3.toNat < b.l3.toNat then 0b11 else 0b01) ∧
        t.err = 0 ∧ UnchangedExcept [.cmp, .err] s t) ∧
    ((s.w[rs1.val] = none ∨ s.w[rs2.val] = none) →
      ∃ t, exec (.cmp rs1 rs2) s = .next t ∧ t.err = 5 ∧ UnchangedExcept [.err] s t)

/-- R79: the order is lexicographic on the halves and agrees with the numeric order of the values. -/
def Obligations.CmpAgreesWithTheNumericOrder : Prop :=
  ∀ (s : State) (rs1 rs2 : Reg) (a b : WideInt), s.w[rs1.val] = some a → s.w[rs2.val] = some b →
    ∃ t, exec (.cmp rs1 rs2) s = .next t ∧
      t.cmp = (if valueOf a < valueOf b then 0b11 else if valueOf b < valueOf a then 0b01 else 0b00) ∧
      t.cmp = (if high a < high b then 0b11 else if high b < high a then 0b01
        else if low a < low b then 0b11 else if low b < low a then 0b01 else 0b00)

/-- Rests on the spec's own inference in R83: the laws of a total order, said of the codes CMP leaves. -/
def Obligations.CmpIsATotalOrder : Prop :=
  ∀ (s : State) (r1 r2 r3 : Reg) (a b c : WideInt),
    s.w[r1.val] = some a → s.w[r2.val] = some b → s.w[r3.val] = some c →
    (cmpResult s r1 r2 = some 0b00 ∨ cmpResult s r1 r2 = some 0b01 ∨ cmpResult s r1 r2 = some 0b11) ∧
    (cmpResult s r1 r2 = some 0b00 ↔ a = b) ∧
    (cmpResult s r1 r2 = some 0b11 ↔ cmpResult s r2 r1 = some 0b01) ∧
    (cmpResult s r1 r2 = some 0b11 → cmpResult s r2 r3 = some 0b11 → cmpResult s r1 r3 = some 0b11)

/-! ### The decimal codec -/

/-- R85 and R86: PARSE checks the whole of TXT_IN first, then its value's range, then writes the value's limbs. -/
def Obligations.ParseReadsANumeral : Prop :=
  ∀ (s : State) (rd : Reg),
    (¬ IsNumeral s.txtIn → ∃ t, exec (.parse rd) s = .next t ∧ t.err = 2 ∧ UnchangedExcept [.err] s t) ∧
    (IsNumeral s.txtIn → 2 ^ 256 ≤ decSum s.txtIn →
      ∃ t, exec (.parse rd) s = .next t ∧ t.err = 1 ∧ UnchangedExcept [.err] s t) ∧
    (IsNumeral s.txtIn → decSum s.txtIn < 2 ^ 256 →
      ∃ t x, exec (.parse rd) s = .next t ∧ t.w[rd.val] = some x ∧
        x.l3.toNat = decSum s.txtIn / 2 ^ 192 % 2 ^ 64 ∧ x.l2.toNat = decSum s.txtIn / 2 ^ 128 % 2 ^ 64 ∧
        x.l1.toNat = decSum s.txtIn / 2 ^ 64 % 2 ^ 64 ∧ x.l0.toNat = decSum s.txtIn % 2 ^ 64 ∧
        t.err = 0 ∧ UnchangedExcept [.w rd, .err] s t)

/-- R88 (and R24's padding): FMT writes the shortest decimal text of the value, 1 to 78 digits, 0x00 past it; else
UNINIT. -/
def Obligations.FmtWritesTheShortestText : Prop :=
  ∀ (s : State) (rs1 : Reg),
    (∀ x, s.w[rs1.val] = some x → ∃ t b, exec (.fmt rs1) s = .next t ∧ t.txtOut = some b ∧
      HoldsText b t.txtLen.toNat ∧ decSum (b.toList.take t.txtLen.toNat) = valueOf x ∧
      t.err = 0 ∧ UnchangedExcept [.txt, .err] s t) ∧
    (s.w[rs1.val] = none → ∃ t, exec (.fmt rs1) s = .next t ∧ t.err = 5 ∧ UnchangedExcept [.err] s t)

/-- R11: `decText n` is the shortest digit sequence of value `n`: "0" for zero, and without a leading zero
otherwise; and `decval` is the sum that defines it. -/
def Obligations.DecimalTextIsShortest : Prop :=
  (∀ n : Nat, IsNumeral (decText n) ∧ decSum (decText n) = n ∧
    ∀ t, IsNumeral t → decSum t = n → (decText n).length ≤ t.length) ∧
  decText 0 = [0x30] ∧
  (∀ n, 0 < n → (decText n).head? ≠ some 0x30) ∧
  (∀ t, IsNumeral t → decval t = decSum t)

/-- Rests on the spec's own inference in R84: PARSE of the characters FMT wrote gives the register's value back. -/
def Obligations.TextCodecRoundTrips : Prop :=
  ∀ (s : State) (ws wd : Reg) (x : WideInt), s.w[ws.val] = some x →
    ∃ t b u, exec (.fmt ws) s = .next t ∧ t.txtOut = some b ∧
      exec (.parse wd) { t with txtIn := b.toList.take t.txtLen.toNat } = .next u ∧
      u.w[wd.val] = some x ∧ u.err = 0

/-! ### Numbers and bytes -/

/-- Rests on the spec's own inference in R8: `limbs` and `val` are inverse to each other; and on R7's bound. -/
def Obligations.LimbsAndValueAreInverse : Prop :=
  (∀ n : Nat, n < 2 ^ 256 → val (limbsOf n) = n) ∧ (∀ x : WideInt, limbsOf (val x) = x) ∧
  (∀ x : WideInt, val x = valueOf x ∧ val x ≤ 2 ^ 256 - 1)

/-- Derived from R9 (its LE32B is no operation of the model): the two 64-bit readings of eight bytes, and the
big-endian 32-byte image. -/
def Obligations.ByteOrdersReadAsDefined : Prop :=
  (∀ b : List Byte, b.length = 8 → (be64 b).toNat = be64Sum b 0 ∧ (le64 b).toNat = le64Sum b 0) ∧
  (∀ n : Nat, n < 2 ^ 256 → (be32B n).length = 32 ∧
    ∀ i < 32, byteAt (be32B n) i = n / 2 ^ (8 * (31 - i)) % 256)

/-! ### Rules over all commands -/

/-- R16: a command that reads a register with VALID = 0 does not execute: it raises UNINIT and writes nothing else. -/
def Obligations.UnwrittenSourceRaisesUninit : Prop :=
  ∀ (i : Instr) (s : State) (r : Reg), r ∈ sources i → s.w[r.val] = none →
    ∃ t, exec i s = .next t ∧ t.err = 5 ∧ UnchangedExcept [.err] s t

/-- R15: VALID[r] becomes 1 by a successful command that writes W[r], is cleared only by reset, and is 0 in every
register after reset. -/
def Obligations.ValidIsSetByWritesAndClearedByReset : Prop :=
  (∀ r : Reg, State.reset.valid r = false) ∧
  (∀ (s t : State) (r : Reg), step s = .next t →
    (t.valid r = true ↔
      (s.valid r = true ∧ ∀ rest, s.pending ≠ .reset :: rest) ∨
      (∃ c rest i, s.pending = .issue c :: rest ∧ decode c = .ok i ∧ r ∈ dests i ∧ t.err = 0)))

/-- Derived from the column "writes" of R56 and from R14 and R29: a command leaves everything unchanged but the items
that column gives it. -/
def Obligations.CommandsWriteOnlyTheirItems : Prop :=
  ∀ (i : Instr) (s t : State), exec i s = .next t → UnchangedExcept (writes i) s t

/-- R94: a command that reports an error writes ERR and nothing else, except that a short read also writes CONSUMED and
moves the stream (and the model's own draw counter, log entry 6). -/
def Obligations.FailingCommandLeavesTheRest : Prop :=
  ∀ (s t : State) (c : CmdWord) (rest : List HostAction), s.pending = .issue c :: rest → step s = .next t →
    (t.err ≠ 0 → t.err ≠ 3 → UnchangedExcept [.err, .pending] s t) ∧
    (t.err = 3 → UnchangedExcept [.err, .pending, .consumed, .binIn, .draws] s t)

/-- R92: every command writes ERR, whatever it held before: what it leaves does not depend on the old ERR, and is a
code of R18. -/
def Obligations.ErrIsOverwrittenByEveryCommand : Prop :=
  ∀ (s s' : State) (c : CmdWord) (rest : List HostAction), s.pending = .issue c :: rest →
    UnchangedExcept [.err] s s' → step s' = step s ∧ ∃ t, step s = .next t ∧ t.err.toNat ≤ 5

/-- R91: which commands raise which error, under which condition, and what the error records; no other code is left.
The records of a short read also name the model's own draw counter (log entry 6). -/
def Obligations.ErrorCausesAreExact : Prop :=
  ∀ (s t : State) (c : CmdWord) (rest : List HostAction), s.pending = .issue c :: rest → step s = .next t →
    (t.err = 1 ↔ (∃ rd, decode c = .ok (.decomp rd) ∧ (s.bigIn < 0 ∨ 2 ^ 256 ≤ s.bigIn)) ∨
      (∃ rd, decode c = .ok (.parse rd) ∧ IsNumeral s.txtIn ∧ 2 ^ 256 ≤ decSum s.txtIn)) ∧
    (t.err = 2 ↔ ∃ rd, decode c = .ok (.parse rd) ∧ ¬ IsNumeral s.txtIn) ∧
    (t.err = 3 ↔ ∃ rd, decode c = .ok (.dec rd) ∧ s.binIn.length < 32) ∧
    (t.err = 4 ↔ WordIllegal c) ∧
    (t.err = 5 ↔ ∃ i r, decode c = .ok i ∧ r ∈ sources i ∧ s.w[r.val] = none) ∧
    t.err.toNat ≤ 5 ∧
    (t.err ≠ 0 → t.err ≠ 3 → UnchangedExcept [.err, .pending] s t) ∧
    (t.err = 3 → UnchangedExcept [.err, .consumed, .binIn, .draws, .pending] s t ∧
      ∃ k ≤ s.binIn.length, t.binIn = s.binIn.drop k)

/-- R93: ILLEGAL comes first, then UNINIT, PARSE before RANGE, and DEC reports nothing but SHORT_READ. -/
def Obligations.ErrorPriorityIsAsGiven : Prop :=
  ∀ (s t : State) (c : CmdWord) (rest : List HostAction), s.pending = .issue c :: rest → step s = .next t →
    (WordIllegal c → t.err = 4) ∧
    (∀ i r, decode c = .ok i → r ∈ sources i → s.w[r.val] = none → t.err = 5) ∧
    (∀ rd, decode c = .ok (.parse rd) → ¬ IsNumeral s.txtIn → t.err = 2) ∧
    (∀ rd, decode c = .ok (.dec rd) → t.err = 0 ∨ t.err = 3)

/-- R19: STATUS.CMP holds the result of the last successful CMP; every other command and a failing CMP leave it. -/
def Obligations.CmpFieldHoldsTheLastComparison : Prop :=
  ∀ (s t : State) (c : CmdWord) (rest : List HostAction), s.pending = .issue c :: rest → step s = .next t →
    (∀ rs1 rs2, decode c = .ok (.cmp rs1 rs2) → t.err = 0 → ∃ a b, s.w[rs1.val] = some a ∧ s.w[rs2.val] = some b ∧
      t.cmp = (if valueOf a = valueOf b then 0b00 else if valueOf b < valueOf a then 0b01 else 0b11)) ∧
    ((¬ ∃ rs1 rs2, decode c = .ok (.cmp rs1 rs2)) ∨ t.err ≠ 0 → t.cmp = s.cmp)

/-- R20: STATUS.RNG holds the result of the last RANGE; no other command writes it, DECOMP among them, which reports an
out-of-range input in ERR. -/
def Obligations.RngFieldHoldsTheLastRange : Prop :=
  ∀ (s t : State) (c : CmdWord) (rest : List HostAction), s.pending = .issue c :: rest → step s = .next t →
    (decode c = .ok .range → t.rng = (if 0 ≤ s.bigIn ∧ s.bigIn < 2 ^ 256 then 1 else 0)) ∧
    (decode c ≠ .ok .range → t.rng = s.rng) ∧
    (∀ rd, decode c = .ok (.decomp rd) → (s.bigIn < 0 ∨ 2 ^ 256 ≤ s.bigIn) → t.err = 1)

/-- R22: CONSUMED is 32 after a DEC that succeeds, and no other command writes it, nor does an illegal word; it is 0
after reset. -/
def Obligations.ConsumedCountsTheLastDec : Prop :=
  State.reset.consumed = 0 ∧
  ∀ (s t : State) (c : CmdWord) (rest : List HostAction), s.pending = .issue c :: rest → step s = .next t →
    ((∃ rd, decode c = .ok (.dec rd)) → t.err = 0 → t.consumed = 32) ∧
    ((¬ ∃ rd, decode c = .ok (.dec rd)) → t.consumed = s.consumed)

/-- R23, R24 and R25: each output register holds what the last successful ENC, FMT or COMPOSE wrote; no other command
writes it; before the first it holds no value, and TXT_LEN is 0. -/
def Obligations.OutputRegistersHoldTheLastResult : Prop :=
  (State.reset.encOut = none ∧ State.reset.txtOut = none ∧ State.reset.txtLen = 0 ∧ State.reset.bigOut = none) ∧
  ∀ (s t : State) (c : CmdWord) (rest : List HostAction), s.pending = .issue c :: rest → step s = .next t →
    (∀ rs1 x, decode c = .ok (.enc rs1) → s.w[rs1.val] = some x →
      ∃ e, t.encOut = some e ∧ valueOf x = ∑ i ∈ Finset.range 32, byteAt e.toList i * 2 ^ (8 * i)) ∧
    ((¬ ∃ rs1, decode c = .ok (.enc rs1)) ∨ t.err ≠ 0 → t.encOut = s.encOut) ∧
    (∀ rs1 x, decode c = .ok (.fmt rs1) → s.w[rs1.val] = some x →
      ∃ b, t.txtOut = some b ∧ HoldsText b t.txtLen.toNat ∧
        decSum (b.toList.take t.txtLen.toNat) = valueOf x) ∧
    ((¬ ∃ rs1, decode c = .ok (.fmt rs1)) ∨ t.err ≠ 0 → t.txtOut = s.txtOut ∧ t.txtLen = s.txtLen) ∧
    (∀ rs1 x, decode c = .ok (.compose rs1) → s.w[rs1.val] = some x →
      t.bigOut = some (valueOf x) ∧ valueOf x ≤ 2 ^ 256 - 1) ∧
    ((¬ ∃ rs1, decode c = .ok (.compose rs1)) ∨ t.err ≠ 0 → t.bigOut = s.bigOut)

/-- Derived from R45: every command other than DEC is a function of its inputs (the ports and the registers it reads), and issuing
it twice with the same inputs gives the same writes; each DEC that succeeds consumes 32 bytes. -/
def Obligations.CommandsAreFunctionsOfTheirInputs : Prop :=
  (∀ (i : Instr) (s s' t t' : State), (∀ rd, i ≠ .dec rd) →
    s.bigIn = s'.bigIn → s.u64In = s'.u64In → s.txtIn = s'.txtIn →
    (∀ r ∈ sources i, s.w[r.val] = s'.w[r.val]) → exec i s = .next t → exec i s' = .next t' →
    t.err = t'.err ∧ (t.err = 0 → ∀ x ∈ writes i, x.Same t t')) ∧
  (∀ (i : Instr) (s t : State), (∀ rd, i ≠ .dec rd) → exec i s = .next t → exec i t = .next t) ∧
  (∀ (rd : Reg) (s t : State), exec (.dec rd) s = .next t → t.err = 0 → s.binIn.length = t.binIn.length + 32)
end

