-- ==== Sys2Proof/Laws/Flags.lean ====
section
/-! SUPPORT. STATUS as numbers: its fields, what writing one field leaves in each, and that words with equal fields are
equal. -/

namespace Sys2Proof.Machine

theorem statusErr_toNat (st : BitVec 16) : (statusErr st).toNat = st.toNat % 8 := by
  simp [statusErr]

theorem statusCmp_toNat (st : BitVec 16) : (statusCmp st).toNat = st.toNat / 8 % 4 := by
  simp [statusCmp, Nat.shiftRight_eq_div_pow]

theorem statusRng_toNat (st : BitVec 16) : (statusRng st).toNat = st.toNat / 32 % 2 := by
  simp [statusRng, Nat.shiftRight_eq_div_pow]

theorem statusRsv_toNat (st : BitVec 16) : (statusRsv st).toNat = st.toNat / 64 := by
  have := st.isLt
  simp only [statusRsv, BitVec.extractLsb'_toNat, Nat.shiftRight_eq_div_pow]
  omega

/-- Concatenated words as a sum. -/
theorem toNat_append_eq {m n : Nat} (x : BitVec m) (y : BitVec n) :
    (x ++ y).toNat = x.toNat * 2 ^ n + y.toNat := by
  rw [BitVec.toNat_append, ← Nat.shiftLeft_add_eq_or_of_lt y.isLt, Nat.shiftLeft_eq]

theorem withErr_toNat (st : BitVec 16) (e : BitVec 3) : (withErr st e).toNat = st.toNat / 8 * 8 + e.toNat := by
  have := st.isLt
  simp only [withErr, toNat_append_eq, BitVec.extractLsb'_toNat, Nat.shiftRight_eq_div_pow]
  omega

theorem withCmp_toNat (st : BitVec 16) (c : BitVec 2) :
    (withCmp st c).toNat = st.toNat / 32 * 32 + c.toNat * 8 + st.toNat % 8 := by
  have := st.isLt
  simp only [withCmp, toNat_append_eq, BitVec.extractLsb'_toNat, Nat.shiftRight_eq_div_pow]
  omega

theorem withRng_toNat (st : BitVec 16) (b : BitVec 1) :
    (withRng st b).toNat = st.toNat / 64 * 64 + b.toNat * 32 + st.toNat % 32 := by
  have := st.isLt
  simp only [withRng, toNat_append_eq, BitVec.extractLsb'_toNat, Nat.shiftRight_eq_div_pow]
  omega

/-- STATUS is the sum of its fields at their places (R17). -/
theorem status_toNat_fields (st : BitVec 16) :
    st.toNat = (statusErr st).toNat + 8 * (statusCmp st).toNat + 32 * (statusRng st).toNat
      + 64 * (statusRsv st).toNat := by
  rw [statusErr_toNat, statusCmp_toNat, statusRng_toNat, statusRsv_toNat]
  omega

theorem status_ext {st st' : BitVec 16} (he : statusErr st = statusErr st') (hc : statusCmp st = statusCmp st')
    (hr : statusRng st = statusRng st') (hv : statusRsv st = statusRsv st') : st = st' := by
  apply BitVec.eq_of_toNat_eq
  rw [status_toNat_fields st, status_toNat_fields st', he, hc, hr, hv]

section
variable (st : BitVec 16) (e e' : BitVec 3) (c c' : BitVec 2) (b b' : BitVec 1)

@[simp] theorem statusErr_withErr : statusErr (withErr st e) = e := by
  apply BitVec.eq_of_toNat_eq; rw [statusErr_toNat, withErr_toNat]; have := e.isLt; omega

@[simp] theorem statusCmp_withErr : statusCmp (withErr st e) = statusCmp st := by
  apply BitVec.eq_of_toNat_eq; rw [statusCmp_toNat, statusCmp_toNat, withErr_toNat]; have := e.isLt; omega

@[simp] theorem statusRng_withErr : statusRng (withErr st e) = statusRng st := by
  apply BitVec.eq_of_toNat_eq; rw [statusRng_toNat, statusRng_toNat, withErr_toNat]; have := e.isLt; omega

@[simp] theorem statusRsv_withErr : statusRsv (withErr st e) = statusRsv st := by
  apply BitVec.eq_of_toNat_eq; rw [statusRsv_toNat, statusRsv_toNat, withErr_toNat]; have := e.isLt; omega

@[simp] theorem statusErr_withCmp : statusErr (withCmp st c) = statusErr st := by
  apply BitVec.eq_of_toNat_eq; rw [statusErr_toNat, statusErr_toNat, withCmp_toNat]; have := c.isLt; omega

@[simp] theorem statusCmp_withCmp : statusCmp (withCmp st c) = c := by
  apply BitVec.eq_of_toNat_eq; rw [statusCmp_toNat, withCmp_toNat]; have := c.isLt; omega

@[simp] theorem statusRng_withCmp : statusRng (withCmp st c) = statusRng st := by
  apply BitVec.eq_of_toNat_eq; rw [statusRng_toNat, statusRng_toNat, withCmp_toNat]; have := c.isLt; omega

@[simp] theorem statusRsv_withCmp : statusRsv (withCmp st c) = statusRsv st := by
  apply BitVec.eq_of_toNat_eq; rw [statusRsv_toNat, statusRsv_toNat, withCmp_toNat]; have := c.isLt; omega

@[simp] theorem statusErr_withRng : statusErr (withRng st b) = statusErr st := by
  apply BitVec.eq_of_toNat_eq; rw [statusErr_toNat, statusErr_toNat, withRng_toNat]; have := b.isLt; omega

@[simp] theorem statusCmp_withRng : statusCmp (withRng st b) = statusCmp st := by
  apply BitVec.eq_of_toNat_eq; rw [statusCmp_toNat, statusCmp_toNat, withRng_toNat]; have := b.isLt; omega

@[simp] theorem statusRng_withRng : statusRng (withRng st b) = b := by
  apply BitVec.eq_of_toNat_eq; rw [statusRng_toNat, withRng_toNat]; have := b.isLt; omega

@[simp] theorem statusRsv_withRng : statusRsv (withRng st b) = statusRsv st := by
  apply BitVec.eq_of_toNat_eq; rw [statusRsv_toNat, statusRsv_toNat, withRng_toNat]; have := b.isLt; omega

@[simp] theorem withErr_withErr : withErr (withErr st e) e' = withErr st e' := by
  apply status_ext <;> simp

end

@[simp] theorem Err.code_inj {e e' : Err} : e.code = e'.code ↔ e = e' := by
  cases e <;> cases e' <;> decide

theorem cmpCode_ne_two (r : Ordering) : cmpCode r ≠ 0b10 := by cases r <;> decide

end Sys2Proof.Machine
end

