-- ==== Sys2Proof/Laws/State.lean ====
section
/-! SUPPORT. What each update of the state leaves in each field, true by definition, so that no later proof unfolds a
record update. -/

namespace Sys2Proof.Machine

/-! ### writeW -/

@[simp] theorem State.writeW_w (s : State) (r : Reg) (v : WideInt) : (s.writeW r v).w = s.w.set r.val (some v) := rfl
@[simp] theorem State.writeW_status (s : State) (r : Reg) (v : WideInt) : (s.writeW r v).status = s.status := rfl
@[simp] theorem State.writeW_consumed (s : State) (r : Reg) (v : WideInt) : (s.writeW r v).consumed = s.consumed := rfl
@[simp] theorem State.writeW_encOut (s : State) (r : Reg) (v : WideInt) : (s.writeW r v).encOut = s.encOut := rfl
@[simp] theorem State.writeW_txtOut (s : State) (r : Reg) (v : WideInt) : (s.writeW r v).txtOut = s.txtOut := rfl
@[simp] theorem State.writeW_txtLen (s : State) (r : Reg) (v : WideInt) : (s.writeW r v).txtLen = s.txtLen := rfl
@[simp] theorem State.writeW_bigOut (s : State) (r : Reg) (v : WideInt) : (s.writeW r v).bigOut = s.bigOut := rfl
@[simp] theorem State.writeW_bigIn (s : State) (r : Reg) (v : WideInt) : (s.writeW r v).bigIn = s.bigIn := rfl
@[simp] theorem State.writeW_u64In (s : State) (r : Reg) (v : WideInt) : (s.writeW r v).u64In = s.u64In := rfl
@[simp] theorem State.writeW_txtIn (s : State) (r : Reg) (v : WideInt) : (s.writeW r v).txtIn = s.txtIn := rfl
@[simp] theorem State.writeW_binIn (s : State) (r : Reg) (v : WideInt) : (s.writeW r v).binIn = s.binIn := rfl
@[simp] theorem State.writeW_pending (s : State) (r : Reg) (v : WideInt) : (s.writeW r v).pending = s.pending := rfl
@[simp] theorem State.writeW_draws (s : State) (r : Reg) (v : WideInt) : (s.writeW r v).draws = s.draws := rfl

/-! ### setStatus -/

@[simp] theorem State.setStatus_w (s : State) (st : BitVec 16) : (s.setStatus st).w = s.w := rfl
@[simp] theorem State.setStatus_status (s : State) (st : BitVec 16) : (s.setStatus st).status = st := rfl
@[simp] theorem State.setStatus_consumed (s : State) (st : BitVec 16) : (s.setStatus st).consumed = s.consumed := rfl
@[simp] theorem State.setStatus_encOut (s : State) (st : BitVec 16) : (s.setStatus st).encOut = s.encOut := rfl
@[simp] theorem State.setStatus_txtOut (s : State) (st : BitVec 16) : (s.setStatus st).txtOut = s.txtOut := rfl
@[simp] theorem State.setStatus_txtLen (s : State) (st : BitVec 16) : (s.setStatus st).txtLen = s.txtLen := rfl
@[simp] theorem State.setStatus_bigOut (s : State) (st : BitVec 16) : (s.setStatus st).bigOut = s.bigOut := rfl
@[simp] theorem State.setStatus_bigIn (s : State) (st : BitVec 16) : (s.setStatus st).bigIn = s.bigIn := rfl
@[simp] theorem State.setStatus_u64In (s : State) (st : BitVec 16) : (s.setStatus st).u64In = s.u64In := rfl
@[simp] theorem State.setStatus_txtIn (s : State) (st : BitVec 16) : (s.setStatus st).txtIn = s.txtIn := rfl
@[simp] theorem State.setStatus_binIn (s : State) (st : BitVec 16) : (s.setStatus st).binIn = s.binIn := rfl
@[simp] theorem State.setStatus_pending (s : State) (st : BitVec 16) : (s.setStatus st).pending = s.pending := rfl
@[simp] theorem State.setStatus_draws (s : State) (st : BitVec 16) : (s.setStatus st).draws = s.draws := rfl

/-! ### setConsumed -/

@[simp] theorem State.setConsumed_w (s : State) (c : BitVec 8) : (s.setConsumed c).w = s.w := rfl
@[simp] theorem State.setConsumed_status (s : State) (c : BitVec 8) : (s.setConsumed c).status = s.status := rfl
@[simp] theorem State.setConsumed_consumed (s : State) (c : BitVec 8) : (s.setConsumed c).consumed = c := rfl
@[simp] theorem State.setConsumed_encOut (s : State) (c : BitVec 8) : (s.setConsumed c).encOut = s.encOut := rfl
@[simp] theorem State.setConsumed_txtOut (s : State) (c : BitVec 8) : (s.setConsumed c).txtOut = s.txtOut := rfl
@[simp] theorem State.setConsumed_txtLen (s : State) (c : BitVec 8) : (s.setConsumed c).txtLen = s.txtLen := rfl
@[simp] theorem State.setConsumed_bigOut (s : State) (c : BitVec 8) : (s.setConsumed c).bigOut = s.bigOut := rfl
@[simp] theorem State.setConsumed_bigIn (s : State) (c : BitVec 8) : (s.setConsumed c).bigIn = s.bigIn := rfl
@[simp] theorem State.setConsumed_u64In (s : State) (c : BitVec 8) : (s.setConsumed c).u64In = s.u64In := rfl
@[simp] theorem State.setConsumed_txtIn (s : State) (c : BitVec 8) : (s.setConsumed c).txtIn = s.txtIn := rfl
@[simp] theorem State.setConsumed_binIn (s : State) (c : BitVec 8) : (s.setConsumed c).binIn = s.binIn := rfl
@[simp] theorem State.setConsumed_pending (s : State) (c : BitVec 8) : (s.setConsumed c).pending = s.pending := rfl
@[simp] theorem State.setConsumed_draws (s : State) (c : BitVec 8) : (s.setConsumed c).draws = s.draws := rfl

/-! ### setEncOut -/

@[simp] theorem State.setEncOut_w (s : State) (e : Vector Byte 32) : (s.setEncOut e).w = s.w := rfl
@[simp] theorem State.setEncOut_status (s : State) (e : Vector Byte 32) : (s.setEncOut e).status = s.status := rfl
@[simp] theorem State.setEncOut_consumed (s : State) (e : Vector Byte 32) : (s.setEncOut e).consumed = s.consumed := rfl
@[simp] theorem State.setEncOut_encOut (s : State) (e : Vector Byte 32) : (s.setEncOut e).encOut = some e := rfl
@[simp] theorem State.setEncOut_txtOut (s : State) (e : Vector Byte 32) : (s.setEncOut e).txtOut = s.txtOut := rfl
@[simp] theorem State.setEncOut_txtLen (s : State) (e : Vector Byte 32) : (s.setEncOut e).txtLen = s.txtLen := rfl
@[simp] theorem State.setEncOut_bigOut (s : State) (e : Vector Byte 32) : (s.setEncOut e).bigOut = s.bigOut := rfl
@[simp] theorem State.setEncOut_bigIn (s : State) (e : Vector Byte 32) : (s.setEncOut e).bigIn = s.bigIn := rfl
@[simp] theorem State.setEncOut_u64In (s : State) (e : Vector Byte 32) : (s.setEncOut e).u64In = s.u64In := rfl
@[simp] theorem State.setEncOut_txtIn (s : State) (e : Vector Byte 32) : (s.setEncOut e).txtIn = s.txtIn := rfl
@[simp] theorem State.setEncOut_binIn (s : State) (e : Vector Byte 32) : (s.setEncOut e).binIn = s.binIn := rfl
@[simp] theorem State.setEncOut_pending (s : State) (e : Vector Byte 32) : (s.setEncOut e).pending = s.pending := rfl
@[simp] theorem State.setEncOut_draws (s : State) (e : Vector Byte 32) : (s.setEncOut e).draws = s.draws := rfl

/-! ### setText -/

@[simp] theorem State.setText_w (s : State) (t : List Byte) : (s.setText t).w = s.w := rfl
@[simp] theorem State.setText_status (s : State) (t : List Byte) : (s.setText t).status = s.status := rfl
@[simp] theorem State.setText_consumed (s : State) (t : List Byte) : (s.setText t).consumed = s.consumed := rfl
@[simp] theorem State.setText_encOut (s : State) (t : List Byte) : (s.setText t).encOut = s.encOut := rfl
@[simp] theorem State.setText_txtOut (s : State) (t : List Byte) : (s.setText t).txtOut = some (padText t) := rfl
@[simp] theorem State.setText_txtLen (s : State) (t : List Byte) : (s.setText t).txtLen = BitVec.ofNat 7 t.length := rfl
@[simp] theorem State.setText_bigOut (s : State) (t : List Byte) : (s.setText t).bigOut = s.bigOut := rfl
@[simp] theorem State.setText_bigIn (s : State) (t : List Byte) : (s.setText t).bigIn = s.bigIn := rfl
@[simp] theorem State.setText_u64In (s : State) (t : List Byte) : (s.setText t).u64In = s.u64In := rfl
@[simp] theorem State.setText_txtIn (s : State) (t : List Byte) : (s.setText t).txtIn = s.txtIn := rfl
@[simp] theorem State.setText_binIn (s : State) (t : List Byte) : (s.setText t).binIn = s.binIn := rfl
@[simp] theorem State.setText_pending (s : State) (t : List Byte) : (s.setText t).pending = s.pending := rfl
@[simp] theorem State.setText_draws (s : State) (t : List Byte) : (s.setText t).draws = s.draws := rfl

/-! ### setBigOut -/

@[simp] theorem State.setBigOut_w (s : State) (n : Nat) : (s.setBigOut n).w = s.w := rfl
@[simp] theorem State.setBigOut_status (s : State) (n : Nat) : (s.setBigOut n).status = s.status := rfl
@[simp] theorem State.setBigOut_consumed (s : State) (n : Nat) : (s.setBigOut n).consumed = s.consumed := rfl
@[simp] theorem State.setBigOut_encOut (s : State) (n : Nat) : (s.setBigOut n).encOut = s.encOut := rfl
@[simp] theorem State.setBigOut_txtOut (s : State) (n : Nat) : (s.setBigOut n).txtOut = s.txtOut := rfl
@[simp] theorem State.setBigOut_txtLen (s : State) (n : Nat) : (s.setBigOut n).txtLen = s.txtLen := rfl
@[simp] theorem State.setBigOut_bigOut (s : State) (n : Nat) : (s.setBigOut n).bigOut = some n := rfl
@[simp] theorem State.setBigOut_bigIn (s : State) (n : Nat) : (s.setBigOut n).bigIn = s.bigIn := rfl
@[simp] theorem State.setBigOut_u64In (s : State) (n : Nat) : (s.setBigOut n).u64In = s.u64In := rfl
@[simp] theorem State.setBigOut_txtIn (s : State) (n : Nat) : (s.setBigOut n).txtIn = s.txtIn := rfl
@[simp] theorem State.setBigOut_binIn (s : State) (n : Nat) : (s.setBigOut n).binIn = s.binIn := rfl
@[simp] theorem State.setBigOut_pending (s : State) (n : Nat) : (s.setBigOut n).pending = s.pending := rfl
@[simp] theorem State.setBigOut_draws (s : State) (n : Nat) : (s.setBigOut n).draws = s.draws := rfl

/-! ### setBigIn -/

@[simp] theorem State.setBigIn_w (s : State) (v : Int) : (s.setBigIn v).w = s.w := rfl
@[simp] theorem State.setBigIn_status (s : State) (v : Int) : (s.setBigIn v).status = s.status := rfl
@[simp] theorem State.setBigIn_consumed (s : State) (v : Int) : (s.setBigIn v).consumed = s.consumed := rfl
@[simp] theorem State.setBigIn_encOut (s : State) (v : Int) : (s.setBigIn v).encOut = s.encOut := rfl
@[simp] theorem State.setBigIn_txtOut (s : State) (v : Int) : (s.setBigIn v).txtOut = s.txtOut := rfl
@[simp] theorem State.setBigIn_txtLen (s : State) (v : Int) : (s.setBigIn v).txtLen = s.txtLen := rfl
@[simp] theorem State.setBigIn_bigOut (s : State) (v : Int) : (s.setBigIn v).bigOut = s.bigOut := rfl
@[simp] theorem State.setBigIn_bigIn (s : State) (v : Int) : (s.setBigIn v).bigIn = v := rfl
@[simp] theorem State.setBigIn_u64In (s : State) (v : Int) : (s.setBigIn v).u64In = s.u64In := rfl
@[simp] theorem State.setBigIn_txtIn (s : State) (v : Int) : (s.setBigIn v).txtIn = s.txtIn := rfl
@[simp] theorem State.setBigIn_binIn (s : State) (v : Int) : (s.setBigIn v).binIn = s.binIn := rfl
@[simp] theorem State.setBigIn_pending (s : State) (v : Int) : (s.setBigIn v).pending = s.pending := rfl
@[simp] theorem State.setBigIn_draws (s : State) (v : Int) : (s.setBigIn v).draws = s.draws := rfl

/-! ### setU64In -/

@[simp] theorem State.setU64In_w (s : State) (u : BitVec 64) : (s.setU64In u).w = s.w := rfl
@[simp] theorem State.setU64In_status (s : State) (u : BitVec 64) : (s.setU64In u).status = s.status := rfl
@[simp] theorem State.setU64In_consumed (s : State) (u : BitVec 64) : (s.setU64In u).consumed = s.consumed := rfl
@[simp] theorem State.setU64In_encOut (s : State) (u : BitVec 64) : (s.setU64In u).encOut = s.encOut := rfl
@[simp] theorem State.setU64In_txtOut (s : State) (u : BitVec 64) : (s.setU64In u).txtOut = s.txtOut := rfl
@[simp] theorem State.setU64In_txtLen (s : State) (u : BitVec 64) : (s.setU64In u).txtLen = s.txtLen := rfl
@[simp] theorem State.setU64In_bigOut (s : State) (u : BitVec 64) : (s.setU64In u).bigOut = s.bigOut := rfl
@[simp] theorem State.setU64In_bigIn (s : State) (u : BitVec 64) : (s.setU64In u).bigIn = s.bigIn := rfl
@[simp] theorem State.setU64In_u64In (s : State) (u : BitVec 64) : (s.setU64In u).u64In = u := rfl
@[simp] theorem State.setU64In_txtIn (s : State) (u : BitVec 64) : (s.setU64In u).txtIn = s.txtIn := rfl
@[simp] theorem State.setU64In_binIn (s : State) (u : BitVec 64) : (s.setU64In u).binIn = s.binIn := rfl
@[simp] theorem State.setU64In_pending (s : State) (u : BitVec 64) : (s.setU64In u).pending = s.pending := rfl
@[simp] theorem State.setU64In_draws (s : State) (u : BitVec 64) : (s.setU64In u).draws = s.draws := rfl

/-! ### setTxtIn -/

@[simp] theorem State.setTxtIn_w (s : State) (t : List Byte) : (s.setTxtIn t).w = s.w := rfl
@[simp] theorem State.setTxtIn_status (s : State) (t : List Byte) : (s.setTxtIn t).status = s.status := rfl
@[simp] theorem State.setTxtIn_consumed (s : State) (t : List Byte) : (s.setTxtIn t).consumed = s.consumed := rfl
@[simp] theorem State.setTxtIn_encOut (s : State) (t : List Byte) : (s.setTxtIn t).encOut = s.encOut := rfl
@[simp] theorem State.setTxtIn_txtOut (s : State) (t : List Byte) : (s.setTxtIn t).txtOut = s.txtOut := rfl
@[simp] theorem State.setTxtIn_txtLen (s : State) (t : List Byte) : (s.setTxtIn t).txtLen = s.txtLen := rfl
@[simp] theorem State.setTxtIn_bigOut (s : State) (t : List Byte) : (s.setTxtIn t).bigOut = s.bigOut := rfl
@[simp] theorem State.setTxtIn_bigIn (s : State) (t : List Byte) : (s.setTxtIn t).bigIn = s.bigIn := rfl
@[simp] theorem State.setTxtIn_u64In (s : State) (t : List Byte) : (s.setTxtIn t).u64In = s.u64In := rfl
@[simp] theorem State.setTxtIn_txtIn (s : State) (t : List Byte) : (s.setTxtIn t).txtIn = t := rfl
@[simp] theorem State.setTxtIn_binIn (s : State) (t : List Byte) : (s.setTxtIn t).binIn = s.binIn := rfl
@[simp] theorem State.setTxtIn_pending (s : State) (t : List Byte) : (s.setTxtIn t).pending = s.pending := rfl
@[simp] theorem State.setTxtIn_draws (s : State) (t : List Byte) : (s.setTxtIn t).draws = s.draws := rfl

/-! ### setBinIn -/

@[simp] theorem State.setBinIn_w (s : State) (b : List Byte) : (s.setBinIn b).w = s.w := rfl
@[simp] theorem State.setBinIn_status (s : State) (b : List Byte) : (s.setBinIn b).status = s.status := rfl
@[simp] theorem State.setBinIn_consumed (s : State) (b : List Byte) : (s.setBinIn b).consumed = s.consumed := rfl
@[simp] theorem State.setBinIn_encOut (s : State) (b : List Byte) : (s.setBinIn b).encOut = s.encOut := rfl
@[simp] theorem State.setBinIn_txtOut (s : State) (b : List Byte) : (s.setBinIn b).txtOut = s.txtOut := rfl
@[simp] theorem State.setBinIn_txtLen (s : State) (b : List Byte) : (s.setBinIn b).txtLen = s.txtLen := rfl
@[simp] theorem State.setBinIn_bigOut (s : State) (b : List Byte) : (s.setBinIn b).bigOut = s.bigOut := rfl
@[simp] theorem State.setBinIn_bigIn (s : State) (b : List Byte) : (s.setBinIn b).bigIn = s.bigIn := rfl
@[simp] theorem State.setBinIn_u64In (s : State) (b : List Byte) : (s.setBinIn b).u64In = s.u64In := rfl
@[simp] theorem State.setBinIn_txtIn (s : State) (b : List Byte) : (s.setBinIn b).txtIn = s.txtIn := rfl
@[simp] theorem State.setBinIn_binIn (s : State) (b : List Byte) : (s.setBinIn b).binIn = b := rfl
@[simp] theorem State.setBinIn_pending (s : State) (b : List Byte) : (s.setBinIn b).pending = s.pending := rfl
@[simp] theorem State.setBinIn_draws (s : State) (b : List Byte) : (s.setBinIn b).draws = s.draws := rfl

/-! ### setPending -/

@[simp] theorem State.setPending_w (s : State) (p : List HostAction) : (s.setPending p).w = s.w := rfl
@[simp] theorem State.setPending_status (s : State) (p : List HostAction) : (s.setPending p).status = s.status := rfl
@[simp] theorem State.setPending_consumed (s : State) (p : List HostAction) : (s.setPending p).consumed = s.consumed := rfl
@[simp] theorem State.setPending_encOut (s : State) (p : List HostAction) : (s.setPending p).encOut = s.encOut := rfl
@[simp] theorem State.setPending_txtOut (s : State) (p : List HostAction) : (s.setPending p).txtOut = s.txtOut := rfl
@[simp] theorem State.setPending_txtLen (s : State) (p : List HostAction) : (s.setPending p).txtLen = s.txtLen := rfl
@[simp] theorem State.setPending_bigOut (s : State) (p : List HostAction) : (s.setPending p).bigOut = s.bigOut := rfl
@[simp] theorem State.setPending_bigIn (s : State) (p : List HostAction) : (s.setPending p).bigIn = s.bigIn := rfl
@[simp] theorem State.setPending_u64In (s : State) (p : List HostAction) : (s.setPending p).u64In = s.u64In := rfl
@[simp] theorem State.setPending_txtIn (s : State) (p : List HostAction) : (s.setPending p).txtIn = s.txtIn := rfl
@[simp] theorem State.setPending_binIn (s : State) (p : List HostAction) : (s.setPending p).binIn = s.binIn := rfl
@[simp] theorem State.setPending_pending (s : State) (p : List HostAction) : (s.setPending p).pending = p := rfl
@[simp] theorem State.setPending_draws (s : State) (p : List HostAction) : (s.setPending p).draws = s.draws := rfl

/-! ### nextDraw -/

@[simp] theorem State.nextDraw_w (s : State) : (s.nextDraw).w = s.w := rfl
@[simp] theorem State.nextDraw_status (s : State) : (s.nextDraw).status = s.status := rfl
@[simp] theorem State.nextDraw_consumed (s : State) : (s.nextDraw).consumed = s.consumed := rfl
@[simp] theorem State.nextDraw_encOut (s : State) : (s.nextDraw).encOut = s.encOut := rfl
@[simp] theorem State.nextDraw_txtOut (s : State) : (s.nextDraw).txtOut = s.txtOut := rfl
@[simp] theorem State.nextDraw_txtLen (s : State) : (s.nextDraw).txtLen = s.txtLen := rfl
@[simp] theorem State.nextDraw_bigOut (s : State) : (s.nextDraw).bigOut = s.bigOut := rfl
@[simp] theorem State.nextDraw_bigIn (s : State) : (s.nextDraw).bigIn = s.bigIn := rfl
@[simp] theorem State.nextDraw_u64In (s : State) : (s.nextDraw).u64In = s.u64In := rfl
@[simp] theorem State.nextDraw_txtIn (s : State) : (s.nextDraw).txtIn = s.txtIn := rfl
@[simp] theorem State.nextDraw_binIn (s : State) : (s.nextDraw).binIn = s.binIn := rfl
@[simp] theorem State.nextDraw_pending (s : State) : (s.nextDraw).pending = s.pending := rfl
@[simp] theorem State.nextDraw_draws (s : State) : (s.nextDraw).draws = s.draws + 1 := rfl

/-! ### applyReset -/

@[simp] theorem State.applyReset_w (s : State) : (s.applyReset).w = Vector.replicate 4 none := rfl
@[simp] theorem State.applyReset_status (s : State) : (s.applyReset).status = 0 := rfl
@[simp] theorem State.applyReset_consumed (s : State) : (s.applyReset).consumed = 0 := rfl
@[simp] theorem State.applyReset_encOut (s : State) : (s.applyReset).encOut = none := rfl
@[simp] theorem State.applyReset_txtOut (s : State) : (s.applyReset).txtOut = none := rfl
@[simp] theorem State.applyReset_txtLen (s : State) : (s.applyReset).txtLen = 0 := rfl
@[simp] theorem State.applyReset_bigOut (s : State) : (s.applyReset).bigOut = none := rfl
@[simp] theorem State.applyReset_bigIn (s : State) : (s.applyReset).bigIn = s.bigIn := rfl
@[simp] theorem State.applyReset_u64In (s : State) : (s.applyReset).u64In = s.u64In := rfl
@[simp] theorem State.applyReset_txtIn (s : State) : (s.applyReset).txtIn = s.txtIn := rfl
@[simp] theorem State.applyReset_binIn (s : State) : (s.applyReset).binIn = s.binIn := rfl
@[simp] theorem State.applyReset_pending (s : State) : (s.applyReset).pending = s.pending := rfl
@[simp] theorem State.applyReset_draws (s : State) : (s.applyReset).draws = s.draws := rfl

/-! ### The STATUS fields of a state -/

@[simp] theorem State.setStatus_err (s : State) (st : BitVec 16) : (s.setStatus st).err = statusErr st := rfl
@[simp] theorem State.writeW_err (s : State) (r : Reg) (v : WideInt) : (s.writeW r v).err = s.err := rfl
@[simp] theorem State.setConsumed_err (s : State) (c : BitVec 8) : (s.setConsumed c).err = s.err := rfl
@[simp] theorem State.setEncOut_err (s : State) (e : Vector Byte 32) : (s.setEncOut e).err = s.err := rfl
@[simp] theorem State.setText_err (s : State) (t : List Byte) : (s.setText t).err = s.err := rfl
@[simp] theorem State.setBigOut_err (s : State) (n : Nat) : (s.setBigOut n).err = s.err := rfl
@[simp] theorem State.setBigIn_err (s : State) (v : Int) : (s.setBigIn v).err = s.err := rfl
@[simp] theorem State.setU64In_err (s : State) (u : BitVec 64) : (s.setU64In u).err = s.err := rfl
@[simp] theorem State.setTxtIn_err (s : State) (t : List Byte) : (s.setTxtIn t).err = s.err := rfl
@[simp] theorem State.setBinIn_err (s : State) (b : List Byte) : (s.setBinIn b).err = s.err := rfl
@[simp] theorem State.setPending_err (s : State) (p : List HostAction) : (s.setPending p).err = s.err := rfl
@[simp] theorem State.nextDraw_err (s : State) : (s.nextDraw).err = s.err := rfl

@[simp] theorem State.setStatus_cmp (s : State) (st : BitVec 16) : (s.setStatus st).cmp = statusCmp st := rfl
@[simp] theorem State.writeW_cmp (s : State) (r : Reg) (v : WideInt) : (s.writeW r v).cmp = s.cmp := rfl
@[simp] theorem State.setConsumed_cmp (s : State) (c : BitVec 8) : (s.setConsumed c).cmp = s.cmp := rfl
@[simp] theorem State.setEncOut_cmp (s : State) (e : Vector Byte 32) : (s.setEncOut e).cmp = s.cmp := rfl
@[simp] theorem State.setText_cmp (s : State) (t : List Byte) : (s.setText t).cmp = s.cmp := rfl
@[simp] theorem State.setBigOut_cmp (s : State) (n : Nat) : (s.setBigOut n).cmp = s.cmp := rfl
@[simp] theorem State.setBigIn_cmp (s : State) (v : Int) : (s.setBigIn v).cmp = s.cmp := rfl
@[simp] theorem State.setU64In_cmp (s : State) (u : BitVec 64) : (s.setU64In u).cmp = s.cmp := rfl
@[simp] theorem State.setTxtIn_cmp (s : State) (t : List Byte) : (s.setTxtIn t).cmp = s.cmp := rfl
@[simp] theorem State.setBinIn_cmp (s : State) (b : List Byte) : (s.setBinIn b).cmp = s.cmp := rfl
@[simp] theorem State.setPending_cmp (s : State) (p : List HostAction) : (s.setPending p).cmp = s.cmp := rfl
@[simp] theorem State.nextDraw_cmp (s : State) : (s.nextDraw).cmp = s.cmp := rfl

@[simp] theorem State.setStatus_rng (s : State) (st : BitVec 16) : (s.setStatus st).rng = statusRng st := rfl
@[simp] theorem State.writeW_rng (s : State) (r : Reg) (v : WideInt) : (s.writeW r v).rng = s.rng := rfl
@[simp] theorem State.setConsumed_rng (s : State) (c : BitVec 8) : (s.setConsumed c).rng = s.rng := rfl
@[simp] theorem State.setEncOut_rng (s : State) (e : Vector Byte 32) : (s.setEncOut e).rng = s.rng := rfl
@[simp] theorem State.setText_rng (s : State) (t : List Byte) : (s.setText t).rng = s.rng := rfl
@[simp] theorem State.setBigOut_rng (s : State) (n : Nat) : (s.setBigOut n).rng = s.rng := rfl
@[simp] theorem State.setBigIn_rng (s : State) (v : Int) : (s.setBigIn v).rng = s.rng := rfl
@[simp] theorem State.setU64In_rng (s : State) (u : BitVec 64) : (s.setU64In u).rng = s.rng := rfl
@[simp] theorem State.setTxtIn_rng (s : State) (t : List Byte) : (s.setTxtIn t).rng = s.rng := rfl
@[simp] theorem State.setBinIn_rng (s : State) (b : List Byte) : (s.setBinIn b).rng = s.rng := rfl
@[simp] theorem State.setPending_rng (s : State) (p : List HostAction) : (s.setPending p).rng = s.rng := rfl
@[simp] theorem State.nextDraw_rng (s : State) : (s.nextDraw).rng = s.rng := rfl

@[simp] theorem State.setStatus_rsv (s : State) (st : BitVec 16) : (s.setStatus st).rsv = statusRsv st := rfl
@[simp] theorem State.writeW_rsv (s : State) (r : Reg) (v : WideInt) : (s.writeW r v).rsv = s.rsv := rfl
@[simp] theorem State.setConsumed_rsv (s : State) (c : BitVec 8) : (s.setConsumed c).rsv = s.rsv := rfl
@[simp] theorem State.setEncOut_rsv (s : State) (e : Vector Byte 32) : (s.setEncOut e).rsv = s.rsv := rfl
@[simp] theorem State.setText_rsv (s : State) (t : List Byte) : (s.setText t).rsv = s.rsv := rfl
@[simp] theorem State.setBigOut_rsv (s : State) (n : Nat) : (s.setBigOut n).rsv = s.rsv := rfl
@[simp] theorem State.setBigIn_rsv (s : State) (v : Int) : (s.setBigIn v).rsv = s.rsv := rfl
@[simp] theorem State.setU64In_rsv (s : State) (u : BitVec 64) : (s.setU64In u).rsv = s.rsv := rfl
@[simp] theorem State.setTxtIn_rsv (s : State) (t : List Byte) : (s.setTxtIn t).rsv = s.rsv := rfl
@[simp] theorem State.setBinIn_rsv (s : State) (b : List Byte) : (s.setBinIn b).rsv = s.rsv := rfl
@[simp] theorem State.setPending_rsv (s : State) (p : List HostAction) : (s.setPending p).rsv = s.rsv := rfl
@[simp] theorem State.nextDraw_rsv (s : State) : (s.nextDraw).rsv = s.rsv := rfl

end Sys2Proof.Machine
end

