-- ==== Sys2Proof/Laws/Ops.lean ====
section
/-! SUPPORT. What each shared operation does, said once: ending a command, reading and writing registers, sources that
may be unwritten, short reads, and taking the host's next action. -/

namespace Sys2Proof.Machine

/-! ### Ending a command -/

@[simp] theorem State.raise_err (s : State) (e : Err) : (s.raise e).err = e.code := by
  simp [State.raise, State.err]

@[simp] theorem State.raise_cmp (s : State) (e : Err) : (s.raise e).cmp = s.cmp := by
  simp [State.raise, State.cmp]

@[simp] theorem State.raise_rng (s : State) (e : Err) : (s.raise e).rng = s.rng := by
  simp [State.raise, State.rng]

@[simp] theorem State.raise_rsv (s : State) (e : Err) : (s.raise e).rsv = s.rsv := by
  simp [State.raise, State.rsv]

@[simp] theorem State.raise_status (s : State) (e : Err) : (s.raise e).status = withErr s.status e.code := rfl
@[simp] theorem State.raise_w (s : State) (e : Err) : (s.raise e).w = s.w := rfl
@[simp] theorem State.raise_consumed (s : State) (e : Err) : (s.raise e).consumed = s.consumed := rfl
@[simp] theorem State.raise_encOut (s : State) (e : Err) : (s.raise e).encOut = s.encOut := rfl
@[simp] theorem State.raise_txtOut (s : State) (e : Err) : (s.raise e).txtOut = s.txtOut := rfl
@[simp] theorem State.raise_txtLen (s : State) (e : Err) : (s.raise e).txtLen = s.txtLen := rfl
@[simp] theorem State.raise_bigOut (s : State) (e : Err) : (s.raise e).bigOut = s.bigOut := rfl
@[simp] theorem State.raise_bigIn (s : State) (e : Err) : (s.raise e).bigIn = s.bigIn := rfl
@[simp] theorem State.raise_u64In (s : State) (e : Err) : (s.raise e).u64In = s.u64In := rfl
@[simp] theorem State.raise_txtIn (s : State) (e : Err) : (s.raise e).txtIn = s.txtIn := rfl
@[simp] theorem State.raise_binIn (s : State) (e : Err) : (s.raise e).binIn = s.binIn := rfl
@[simp] theorem State.raise_pending (s : State) (e : Err) : (s.raise e).pending = s.pending := rfl
@[simp] theorem State.raise_draws (s : State) (e : Err) : (s.raise e).draws = s.draws := rfl

/-- Success is the outcome NONE, so the lemmas of `raise` say all of it. -/
@[simp] theorem State.succeed_eq (s : State) : s.succeed = s.raise .none := rfl

/-! ### Value registers -/

@[simp] theorem State.writeW_get (s : State) (r : Reg) (v : WideInt) (k : Nat) (h : k < 4) :
    (s.writeW r v).w[k] = if r.val = k then some v else s.w[k] := by
  simp [Vector.getElem_set]

theorem State.valid_iff (s : State) (r : Reg) : s.valid r = true ↔ ∃ x, s.w[r.val] = some x := by
  simp [State.valid, State.readW, Option.isSome_iff_exists]

/-- All a source read can do: go on with the register's value, or raise UNINIT. -/
theorem withSource_some {s : State} {r : Reg} {x : WideInt} (h : s.w[r.val] = some x)
    (k : WideInt → Host.Outcome State Fault Refusal) : withSource s r k = k x := by
  simp [withSource, State.readW, h]

theorem withSource_none {s : State} {r : Reg} (h : s.w[r.val] = none)
    (k : WideInt → Host.Outcome State Fault Refusal) : withSource s r k = .next (s.raise .uninit) := by
  simp [withSource, State.readW, h]

theorem withSource_cases (s : State) (r : Reg) (k : WideInt → Host.Outcome State Fault Refusal) :
    (s.w[r.val] = none ∧ withSource s r k = .next (s.raise .uninit)) ∨
    (∃ x, s.w[r.val] = some x ∧ withSource s r k = k x) := by
  cases h : s.w[r.val] with
  | none => exact .inl ⟨rfl, withSource_none h k⟩
  | some x => exact .inr ⟨x, rfl, withSource_some h k⟩

/-! ### The STATUS fields a command writes -/

/-- Writing CMP is writing STATUS. -/
@[simp] theorem State.setCmp_eq (s : State) (r : Ordering) : s.setCmp r = s.setStatus (withCmp s.status (cmpCode r)) := rfl

/-- Writing RNG is writing STATUS. -/
@[simp] theorem State.setRng_eq (s : State) (b : Bool) :
    s.setRng b = s.setStatus (withRng s.status (BitVec.ofBool b)) := rfl

/-! ### The stream -/

/-- The free draw stays within the stream (R37). -/
theorem State.drawAdvance_le (s : State) : s.drawAdvance ≤ s.binIn.length :=
  Nat.le_of_lt_succ (Nat.mod_lt _ (Nat.succ_pos _))

/-- All a short read does before the error is written (R78). -/
theorem State.shortRead_eq (s : State) :
    s.shortRead = { s with binIn := s.binIn.drop s.drawAdvance, consumed := s.drawConsumed, draws := s.draws + 1 } := rfl

/-! ### Taking the host's next action -/

theorem State.take_idle {s : State} (h : s.pending = []) : s.take = .idle := by simp [State.take, h]

theorem State.take_command {s : State} {c : CmdWord} {rest : List HostAction} {i : Instr}
    (h : s.pending = .issue c :: rest) (hd : decode c = .ok i) : s.take = .command i (s.setPending rest) := by
  simp [State.take, h, hd]

theorem State.take_illegal {s : State} {c : CmdWord} {rest : List HostAction} {why : IllegalWord}
    (h : s.pending = .issue c :: rest) (hd : decode c = .error why) :
    s.take = .illegal why (s.setPending rest) := by
  simp [State.take, h, hd]

end Sys2Proof.Machine
end

