-- ==== Sys2Proof/Laws/Frame.lean ====
section
/-! SUPPORT. Lemmas of frames: what each named update leaves unchanged, how frames compose, and that a state unchanged
in every item is the same state. -/

namespace Sys2Proof.Machine

theorem UnchangedExcept.refl (l : List StateItem) (s : State) : UnchangedExcept l s s := by
  intro x _
  cases x <;> simp [StateItem.Same]

theorem UnchangedExcept.trans {l : List StateItem} {a b c : State} (h : UnchangedExcept l a b)
    (h' : UnchangedExcept l b c) : UnchangedExcept l a c := by
  intro x hx
  have h1 := h x hx
  have h2 := h' x hx
  cases x <;> simp only [StateItem.Same] at *
  case txt => exact ⟨h2.1.trans h1.1, h2.2.trans h1.2⟩
  all_goals exact h2.trans h1

theorem UnchangedExcept.mono {l l' : List StateItem} {s t : State} (h : UnchangedExcept l s t) (hl : l ⊆ l') :
    UnchangedExcept l' s t := fun x hx => h x fun hm => hx (hl hm)

/-- Ending a command changes ERR alone (R94). -/
theorem UnchangedExcept.raise {l : List StateItem} (s : State) (e : Err) (hl : .err ∈ l) :
    UnchangedExcept l s (s.raise e) := by
  intro x hx
  cases x <;> simp only [StateItem.Same, State.raise_status, State.raise_w, State.raise_consumed, State.raise_encOut,
    State.raise_txtOut, State.raise_txtLen, State.raise_bigOut, State.raise_bigIn, State.raise_u64In, State.raise_txtIn,
    State.raise_binIn, State.raise_pending, State.raise_draws, and_self]
  case err => exact absurd hl hx
  case cmp => exact statusCmp_withErr _ _
  case rng => exact statusRng_withErr _ _
  case rsv => exact statusRsv_withErr _ _

/-- Writing a value register changes it alone (R12). -/
theorem UnchangedExcept.writeW {l : List StateItem} (s : State) (r : Reg) (v : WideInt) (hl : .w r ∈ l) :
    UnchangedExcept l s (s.writeW r v) := by
  intro x hx
  cases x with
  | w q =>
    have hq : r.val ≠ q.val := fun h => hx (Fin.ext h ▸ hl)
    simp [StateItem.Same, hq]
  | _ => simp [StateItem.Same]

theorem UnchangedExcept.setPending {l : List StateItem} (s : State) (p : List HostAction) (hl : .pending ∈ l) :
    UnchangedExcept l s (s.setPending p) := by
  intro x hx
  cases x <;> simp [StateItem.Same]
  exact absurd hl hx

/-- Writing CMP changes CMP alone. -/
theorem UnchangedExcept.setCmp {l : List StateItem} (s : State) (o : Ordering) (hl : .cmp ∈ l) :
    UnchangedExcept l s (s.setCmp o) := by
  intro x hx
  cases x <;> simp [StateItem.Same]
  case err => exact statusErr_withCmp _ _
  case cmp => exact absurd hl hx
  case rng => exact statusRng_withCmp _ _
  case rsv => exact statusRsv_withCmp _ _

/-- Writing RNG changes RNG alone. -/
theorem UnchangedExcept.setRng {l : List StateItem} (s : State) (b : Bool) (hl : .rng ∈ l) :
    UnchangedExcept l s (s.setRng b) := by
  intro x hx
  cases x <;> simp [StateItem.Same]
  case err => exact statusErr_withRng _ _
  case cmp => exact statusCmp_withRng _ _
  case rng => exact absurd hl hx
  case rsv => exact statusRsv_withRng _ _

/-- The items are all there is: a state unchanged in each of them is the same state. -/
theorem State.eq_of_unchanged {s t : State} (h : UnchangedExcept [] s t) : t = s := by
  have hw : t.w = s.w := Vector.ext fun i hi => h (.w ⟨i, hi⟩) (by simp)
  have hs : t.status = s.status :=
    status_ext (h .err (by simp)) (h .cmp (by simp)) (h .rng (by simp)) (h .rsv (by simp))
  have h1 := h .consumed (by simp)
  have h2 := h .encOut (by simp)
  have h3 := h .txt (by simp)
  have h4 := h .bigOut (by simp)
  have h5 := h .bigIn (by simp)
  have h6 := h .u64In (by simp)
  have h7 := h .txtIn (by simp)
  have h8 := h .binIn (by simp)
  have h9 := h .pending (by simp)
  have h10 := h .draws (by simp)
  cases s
  cases t
  simp_all [StateItem.Same]

end Sys2Proof.Machine
end

