-- ==== Sys2Proof/Laws/Operands.lean ====
section
/-! SUPPORT. Lemmas of the numeric operations: byte sequences as numbers, decimal digits, limb comparison. -/

namespace Sys2Proof.Machine

/-! ### Byte sequences as numbers -/

@[simp] theorem byteAt_nil (i : Nat) : byteAt [] i = 0 := by simp [byteAt]

@[simp] theorem byteAt_cons_zero (x : Byte) (b : List Byte) : byteAt (x :: b) 0 = x.toNat := by simp [byteAt]

@[simp] theorem byteAt_cons_succ (x : Byte) (b : List Byte) (i : Nat) : byteAt (x :: b) (i + 1) = byteAt b i := by
  simp [byteAt]

theorem byteAt_lt (b : List Byte) (i : Nat) : byteAt b i < 256 := (b.getD i 0).isLt

theorem leNat_lt (b : List Byte) : leNat b < 256 ^ b.length := by
  induction b with
  | nil => simp [leNat]
  | cons x b ih =>
    have := x.isLt
    simp only [leNat, List.length_cons, Nat.pow_succ]
    omega

theorem leNat_append (a b : List Byte) : leNat (a ++ b) = leNat a + 256 ^ a.length * leNat b := by
  induction a with
  | nil => simp [leNat]
  | cons x a ih => simp only [List.cons_append, leNat, ih, List.length_cons, Nat.pow_succ]; ring

theorem beNat_append_singleton (b : List Byte) (x : Byte) : beNat (b ++ [x]) = beNat b * 256 + x.toNat := by
  simp [beNat]

/-- The two readings differ by the order of the bytes. -/
theorem beNat_reverse (b : List Byte) : beNat b.reverse = leNat b := by
  induction b with
  | nil => rfl
  | cons x b ih => rw [List.reverse_cons, beNat_append_singleton, ih, leNat]; ring

theorem leNat_eq_sum (b : List Byte) : leNat b = ∑ i ∈ Finset.range b.length, byteAt b i * 256 ^ i := by
  induction b with
  | nil => simp [leNat]
  | cons x b ih =>
    rw [List.length_cons, Finset.sum_range_succ', leNat, ih, Finset.mul_sum]
    simp only [byteAt_cons_succ, byteAt_cons_zero, pow_zero, mul_one]
    rw [add_comm]
    congr 1
    exact Finset.sum_congr rfl fun i _ => by ring

theorem be32B_length (n : Nat) : (be32B n).length = 32 := by simp [be32B]

/-! ### Values and limbs -/

theorem val_lt (x : WideInt) : val x < Config.ceil := by
  have := x.l3.isLt; have := x.l2.isLt; have := x.l1.isLt; have := x.l0.isLt
  simp only [val, high, low, Config.ceil]
  omega

theorem compose_eq_val (x : WideInt) : compose x = val x := rfl

theorem inRange_iff (v : Int) : inRange v = true ↔ 0 ≤ v ∧ v < 2 ^ 256 := by simp [inRange, Config.ceil]

/-! ### Decimal text -/

theorem validNumeral_iff (t : List Byte) : validNumeral t = true ↔ IsNumeral t := by
  simp [validNumeral, IsNumeral, isDigit]

theorem decval_append_singleton (t : List Byte) (c : Byte) : decval (t ++ [c]) = decval t * 10 + digval c := by
  simp [decval]

theorem digitByte_toNat {d : Nat} (h : d < 10) : (digitByte d).toNat = 0x30 + d := by
  simp only [digitByte, BitVec.toNat_ofNat]
  omega

/-- `decAux` only puts characters before its accumulator. -/
theorem decAux_append (fuel n : Nat) (acc : List Byte) : decAux fuel n acc = decAux fuel n [] ++ acc := by
  induction fuel generalizing n acc with
  | zero => simp [decAux]
  | succ f ih =>
    by_cases h : n < 10
    · simp [decAux, h]
    · rw [decAux, if_neg h, ih, decAux, if_neg h, ih (n / 10) [_]]; simp

/-- One digit: the number itself; more: the text of the quotient, then the digit of the remainder. -/
theorem decAux_step (fuel n : Nat) :
    decAux (fuel + 1) n [] = if n < 10 then [digitByte n] else decAux fuel (n / 10) [] ++ [digitByte (n % 10)] := by
  by_cases h : n < 10
  · simp [decAux, h]
  · rw [decAux, if_neg h, decAux_append, if_neg h]

/-! ### Comparing limbs -/

theorem cmpLimb_eq_iff (a b : Limb) : cmpLimb a b = .eq ↔ a = b := by
  unfold cmpLimb
  split_ifs with h1 h2
  · simp only [false_iff]; rintro rfl; omega
  · simp only [false_iff]; rintro rfl; omega
  · simp only [true_iff]; exact BitVec.eq_of_toNat_eq (by omega)

/-- The first unequal pair decides (R82). -/
theorem cmpLimbs_cons (a b : Limb) (rest : List (Limb × Limb)) :
    cmpLimbs ((a, b) :: rest) =
      if a.toNat < b.toNat then .lt else if b.toNat < a.toNat then .gt else cmpLimbs rest := by
  simp only [cmpLimbs, cmpLimb]
  split_ifs <;> rfl

end Sys2Proof.Machine
end

