-- ==== Sys2Proof/Laws/Exec.lean ====
section
/-! SUPPORT. One equation per way a command with a condition can end, so that no proof unfolds a meaning. -/

namespace Sys2Proof.Machine

theorem exec_decomp_inRange {s : State} (rd : Reg) (h : 0 ≤ s.bigIn ∧ s.bigIn < 2 ^ 256) :
    exec (.decomp rd) s = .next ((s.writeW rd (decompose s.bigIn.toNat)).raise .none) := by
  simp [exec, execDecomp, (inRange_iff _).2 h]

theorem exec_decomp_outOfRange {s : State} (rd : Reg) (h : ¬ (0 ≤ s.bigIn ∧ s.bigIn < 2 ^ 256)) :
    exec (.decomp rd) s = .next (s.raise .range) := by
  have : inRange s.bigIn = false := Bool.eq_false_iff.2 fun h' => h ((inRange_iff _).1 h')
  simp [exec, execDecomp, this]

theorem exec_compose_valid {s : State} {r : Reg} {x : WideInt} (h : s.w[r.val] = some x) :
    exec (.compose r) s = .next ((s.setBigOut (compose x)).raise .none) := withSource_some h _

theorem exec_enc_valid {s : State} {r : Reg} {x : WideInt} (h : s.w[r.val] = some x) :
    exec (.enc r) s = .next ((s.setEncOut (encBytes x)).raise .none) := withSource_some h _

theorem exec_fmt_valid {s : State} {r : Reg} {x : WideInt} (h : s.w[r.val] = some x) :
    exec (.fmt r) s = .next ((s.setText (decText (val x))).raise .none) := withSource_some h _

theorem exec_cmp_valid {s : State} {r q : Reg} {a b : WideInt} (ha : s.w[r.val] = some a) (hb : s.w[q.val] = some b) :
    exec (.cmp r q) s = .next ((s.setCmp (cmpWide a b)).raise .none) :=
  (withSource_some ha _).trans (withSource_some hb _)

theorem exec_dec_enough {s : State} (rd : Reg) (h : 32 ≤ s.binIn.length) :
    exec (.dec rd) s =
      .next (State.raise .none (((s.streamAdvance 32).writeW rd (decBytes (s.streamPeek 32))).setConsumed 32)) := by
  simp [exec, execDec, State.avail, Nat.not_lt.2 h]

theorem exec_dec_short {s : State} (rd : Reg) (h : s.binIn.length < 32) :
    exec (.dec rd) s = .next (s.shortRead.raise .shortRead) := by
  simp [exec, execDec, State.avail, h]

theorem exec_parse_invalid {s : State} (rd : Reg) (h : ¬ IsNumeral s.txtIn) :
    exec (.parse rd) s = .next (s.raise .parse) := by
  have : validNumeral s.txtIn = false := Bool.eq_false_iff.2 fun h' => h ((validNumeral_iff _).1 h')
  simp [exec, execParse, this]

theorem exec_parse_tooLarge {s : State} (rd : Reg) (h : IsNumeral s.txtIn) (hl : 2 ^ 256 ≤ decval s.txtIn) :
    exec (.parse rd) s = .next (s.raise .range) := by
  simp only [exec, execParse, (validNumeral_iff _).2 h, if_true, if_neg (Nat.not_lt.2 hl)]

theorem exec_parse_value {s : State} (rd : Reg) (h : IsNumeral s.txtIn) (hl : decval s.txtIn < 2 ^ 256) :
    exec (.parse rd) s = .next ((s.writeW rd (limbsOf (decval s.txtIn))).raise .none) := by
  have hl' : decval s.txtIn < Config.ceil := hl
  simp only [exec, execParse, (validNumeral_iff _).2 h, if_true, if_pos hl', State.succeed_eq]

end Sys2Proof.Machine
end

