-- ==== Sys2Proof/Laws/PerInstr.lean ====
section
/-! SUPPORT. Facts stated once per command: its fields are legal (30_encoding.md R58) and stand in its word where R54
puts them. -/

namespace Sys2Proof.Laws.Encoding

/-- The command is well formed and its word holds exactly its fields. -/
def Statement (i : Instr) : Prop := i.wellFormed = true ∧ Fields.ofWord (encode i) = i.fields

theorem nop : Statement .nop := ⟨by decide, by decide⟩
theorem range : Statement .range := ⟨by decide, by decide⟩
theorem decomp (rd : Reg) : Statement (.decomp rd) := ⟨by revert rd; decide, by revert rd; decide⟩
theorem compose (rs1 : Reg) : Statement (.compose rs1) := ⟨by revert rs1; decide, by revert rs1; decide⟩
theorem ldu64 (rd : Reg) : Statement (.ldu64 rd) := ⟨by revert rd; decide, by revert rd; decide⟩
theorem enc (rs1 : Reg) : Statement (.enc rs1) := ⟨by revert rs1; decide, by revert rs1; decide⟩
theorem dec (rd : Reg) : Statement (.dec rd) := ⟨by revert rd; decide, by revert rd; decide⟩
theorem cmp (rs1 rs2 : Reg) : Statement (.cmp rs1 rs2) :=
  ⟨by revert rs1 rs2; decide, by revert rs1 rs2; decide⟩
theorem parse (rd : Reg) : Statement (.parse rd) := ⟨by revert rd; decide, by revert rd; decide⟩
theorem fmt (rs1 : Reg) : Statement (.fmt rs1) := ⟨by revert rs1; decide, by revert rs1; decide⟩

end Sys2Proof.Laws.Encoding
end

