-- ==== Sys2Proof/Tests/Slice0.lean ====
section
/-! SUPPORT. The model's own tests. Expected results are those of spec/95_test_vectors.md and of the rules named; then
one witness for the hypotheses of each statement that has any. -/

open Sys2Proof Sys2Proof.Machine

namespace Sys2Proof.Tests

/-! ### Decoding: words written out from R54 and R56 -/

theorem test_decode_nop : decode 0b000000_00_00_00_0000 = .ok .nop := by decide
theorem test_decode_range : decode 0b000000_00_00_00_0001 = .ok .range := by decide
theorem test_decode_decomp : decode 0b000000_00_00_11_0010 = .ok (.decomp 3) := by decide
theorem test_decode_compose : decode 0b000000_00_10_00_0011 = .ok (.compose 2) := by decide
theorem test_decode_ldu64 : decode 0b000000_00_00_01_0100 = .ok (.ldu64 1) := by decide
theorem test_decode_enc : decode 0b000000_00_11_00_0101 = .ok (.enc 3) := by decide
theorem test_decode_dec : decode 0b000000_00_00_10_0110 = .ok (.dec 2) := by decide
theorem test_decode_cmp : decode 0b000000_11_10_00_0111 = .ok (.cmp 2 3) := by decide
theorem test_decode_parse : decode 0b000000_00_00_11_1000 = .ok (.parse 3) := by decide
theorem test_decode_fmt : decode 0b000000_00_01_00_1001 = .ok (.fmt 1) := by decide

/-- The table "Illegal words" of 95_test_vectors.md: no row of R57 hits. -/
theorem test_decode_illegal :
    ([0x000A, 0x000F, 0xFFFF, 0x0400, 0x8002, 0x0010, 0x0041, 0x0042, 0x0013, 0x0105, 0x0017, 0x0116, 0x0417] :
      List CmdWord).all (fun c => (decode c).toOption == none) = true := by decide

theorem test_table_word : decodeTableWord 16 0x0387 = some (.cmp 2 3) := by decide

/-! ### Well-formedness: each check refuses an ill-formed term (R58) -/

theorem test_wf_rsv : (Fields.mk 2 1 0 0 1).rsvClear = false ∧ (Fields.mk 2 1 0 0 1).legal = false := by decide
theorem test_wf_op : (Fields.mk 10 0 0 0 0).opDefined = false ∧ (Fields.mk 10 0 0 0 0).legal = false := by decide
theorem test_wf_unused_rd : (Fields.mk 7 1 0 0 0).unusedClear = false ∧ (Fields.mk 7 1 0 0 0).legal = false := by decide
theorem test_wf_unused_rs1 : (Fields.mk 2 0 1 0 0).unusedClear = false ∧ (Fields.mk 2 0 1 0 0).legal = false := by
  decide
theorem test_wf_unused_rs2 : (Fields.mk 5 0 0 1 0).unusedClear = false ∧ (Fields.mk 5 0 0 1 0).legal = false := by
  decide
theorem test_wf_good : (Fields.mk 7 0 3 3 0).legal = true ∧ (Instr.cmp 3 3).wellFormed = true := by decide

/-! ### Helpers -/

/-- The state a step answers. -/
def after (s : State) : State :=
  match step s with
  | .next t => t
  | _ => s

/-- The host issues one word. -/
def issue (c : CmdWord) (s : State) : State := { s with pending := [.issue c] }

/-- The state after one command. -/
def run (c : CmdWord) (s : State) : State := after (issue c s)

/-- Digits as text. -/
def digits (l : List Nat) : List Byte := l.map fun d => BitVec.ofNat 8 (0x30 + d)

/-- A state with values in w0 and w1 and none in w2 and w3. -/
def two (a b : WideInt) : State := { State.reset with w := #v[some a, some b, none, none] }

/-- The pattern P of 95_test_vectors.md. -/
def patP : WideInt := ⟨0x0123456789ABCDEF, 0xFEDCBA9876543210, 0x0011223344556677, 0x8899AABBCCDDEEFF⟩

/-- The integer P. -/
def intP : Nat := 514631507721405312519378913364952599437893773118507240507895286931579072255

/-- All limbs ones. -/
def ones : WideInt := ⟨-1, -1, -1, -1⟩

/-- The 78 digits of 2^256. -/
def ceilText : List Byte := digits ([1, 1, 5, 7, 9, 2, 0, 8, 9, 2, 3, 7, 3, 1, 6, 1, 9, 5, 4, 2, 3, 5, 7, 0, 9, 8] ++ [5, 0, 0, 8, 6, 8, 7, 9, 0, 7, 8, 5, 3, 2, 6, 9, 9, 8, 4, 6, 6, 5, 6, 4, 0, 5] ++ [6, 4, 0, 3, 9, 4, 5, 7, 5, 8, 4, 0, 0, 7, 9, 1, 3, 1, 2, 9, 6, 3, 9, 9, 3, 6])

/-- The 78 digits of 2^256 - 1. -/
def maxText : List Byte := digits ([1, 1, 5, 7, 9, 2, 0, 8, 9, 2, 3, 7, 3, 1, 6, 1, 9, 5, 4, 2, 3, 5, 7, 0, 9, 8] ++ [5, 0, 0, 8, 6, 8, 7, 9, 0, 7, 8, 5, 3, 2, 6, 9, 9, 8, 4, 6, 6, 5, 6, 4, 0, 5] ++ [6, 4, 0, 3, 9, 4, 5, 7, 5, 8, 4, 0, 0, 7, 9, 1, 3, 1, 2, 9, 6, 3, 9, 9, 3, 5])

/-! ### One step per command -/

/-- R89: STATUS 0x001D becomes 0x0018. -/
theorem test_nop : (run 0x0000 { State.reset with status := 0x001D }).status = 0x0018 := by decide

/-- R64: 2^256 - 1 is in range, 2^256 and -1 are not. -/
theorem test_range : (run 0x0001 { State.reset with bigIn := 2 ^ 256 - 1 }).status = 0x0020 ∧
    (run 0x0001 { State.reset with bigIn := 2 ^ 256, status := 0x0020 }).status = 0 ∧
    (run 0x0001 { State.reset with bigIn := -1 }).status = 0 := by decide

/-- R66: the pattern P has four different limbs. -/
theorem test_decomp : (run 0x0012 { State.reset with bigIn := intP }).w[1] = some patP := by decide

/-- R66: out of range leaves the old value. -/
theorem test_decomp_range : let t := run 0x0002 { two patP ones with bigIn := 2 ^ 256 }
    t.err = 1 ∧ t.w[0] = some patP := by decide

/-- R68. -/
theorem test_compose : (run 0x0003 (two patP ones)).bigOut = some intP := by decide

/-- R16: an unwritten source. -/
theorem test_compose_uninit : (run 0x0083 (two patP ones)).status = 0x0005 := by decide

/-- R70: no sign extension. -/
theorem test_ldu64 : (run 0x0034 { State.reset with u64In := 0x8000000000000000 }).w[3] =
    some ⟨0, 0, 0, 0x8000000000000000⟩ := by decide

/-- R76: the bytes of P. -/
theorem test_enc : (run 0x0005 (two patP ones)).encOut.map (·.toList) = some
    [0xFF, 0xEE, 0xDD, 0xCC, 0xBB, 0xAA, 0x99, 0x88, 0x77, 0x66, 0x55, 0x44, 0x33, 0x22, 0x11, 0x00,
     0x10, 0x32, 0x54, 0x76, 0x98, 0xBA, 0xDC, 0xFE, 0xEF, 0xCD, 0xAB, 0x89, 0x67, 0x45, 0x23, 0x01] := by decide

/-- R78: 33 bytes; the last stays in the stream. -/
theorem test_dec : let t := run 0x0016 { State.reset with binIn := [0x2C, 0x01] ++ List.replicate 30 0 ++ [0xAA] }
    t.w[1] = some ⟨0, 0, 0, 0x12C⟩ ∧ t.consumed = 32 ∧ t.binIn = [0xAA] ∧ t.err = 0 := by decide

/-- R78: 31 bytes are a short read; the register stays. -/
theorem test_dec_short : let t := run 0x0006 { two patP ones with binIn := List.replicate 31 7 }
    t.err = 3 ∧ t.w[0] = some patP := by decide

/-- R82: 2^192 against 2^192 - 1, both ways round. -/
theorem test_cmp : (run 0x0107 (two ⟨1, 0, 0, 0⟩ ⟨0, -1, -1, -1⟩)).status = 0x0008 ∧
    (run 0x0047 (two ⟨1, 0, 0, 0⟩ ⟨0, -1, -1, -1⟩)).status = 0x0018 := by decide

/-- R82: a limb is never signed; a failing CMP keeps the old code. -/
theorem test_cmp_unsigned : (run 0x0107 (two ⟨0, 0, 0, -1⟩ ⟨0, 0, 0, 1⟩)).cmp = 0b01 ∧
    (run 0x0207 { two patP ones with status := 0x0018 }).status = 0x001D := by decide

set_option maxRecDepth 4000 in
/-- R86: the largest value, and one more. -/
theorem test_parse : (run 0x0008 { State.reset with txtIn := maxText }).w[0] = some ones ∧
    (run 0x0008 { State.reset with txtIn := ceilText }).err = 1 := by decide

set_option maxRecDepth 4000 in
/-- R86: leading zeros are accepted; "-0", the empty text and 2^256 followed by "x" are PARSE errors. -/
theorem test_parse_forms : (run 0x0008 { State.reset with txtIn := digits [0, 0, 7] }).w[0] = some ⟨0, 0, 0, 7⟩ ∧
    (run 0x0008 { State.reset with txtIn := [0x2D, 0x30] }).err = 2 ∧ (run 0x0008 State.reset).err = 2 ∧
    (run 0x0008 { State.reset with txtIn := ceilText ++ [0x78] }).err = 2 := by decide

/-- R88: 300 and 0, and the padding. -/
theorem test_fmt : let t := run 0x0009 (two ⟨0, 0, 0, 300⟩ ⟨0, 0, 0, 0⟩)
    t.txtLen = 3 ∧ t.txtOut.map (·.toList) = some ([0x33, 0x30, 0x30] ++ List.replicate 75 0) ∧
    (run 0x0049 (two patP ⟨0, 0, 0, 0⟩)).txtLen = 1 := by decide +kernel

/-- R87: the 78-digit maximum. -/
theorem test_fmt_max : (run 0x0009 (two ones ones)).txtOut.map (·.toList) = some maxText := by decide +kernel

/-- R58: ILLEGAL is tested before UNINIT; nothing else changes. -/
theorem test_illegal : run 0x0417 State.reset = { State.reset with status := 4 } := by decide

/-- R105, R106: reset clears the block and leaves the ports. -/
theorem test_reset : let t := after { two patP ones with status := 0x0038, bigIn := 9, pending := [.reset] }
    t = { State.reset with bigIn := 9 } := by decide

/-- The first command after reset, placed as the host places it. -/
theorem test_placed : after (State.reset.withFetchWord 16 0x0004) =
    { State.reset with w := #v[some ⟨0, 0, 0, 0⟩, none, none, none] } := by decide

/-! ### Witnesses: states and operands that meet the hypotheses of each statement -/

/-- Any issued word gives a state whose step answers. -/
theorem issue_steps (c : CmdWord) (s : State) (t : State) (h : step (issue c s) = .next t) :
    (issue c s).pending = .issue c :: [] ∧ step (issue c s) = .next (run c s) := by
  refine ⟨rfl, ?_⟩
  simp [run, after, h]

/-- IllegalWordRaisesIllegal, at the edge of each condition; 0x03C7 is the largest legal word of CMP. -/
theorem test_witness_illegal : (∀ c ∈ ([0x0400, 0x000A, 0x0010, 0x0041, 0x0042, 0x0102, 0x0013, 0x0103, 0x0017] :
      List CmdWord), WordIllegal c) ∧ (∀ c ∈ ([0x03C7, 0x0009] : List CmdWord), ¬ WordIllegal c) ∧
    (issue 0x0400 State.reset).pending = [.issue 0x0400] := by
  simp [WordIllegal, opNum, rdNum, rs1Num, rs2Num, issue]

/-- ReservedOpcodesAreIllegal: the first and the last reserved opcode. -/
theorem test_witness_reserved : 10 ≤ opNum 0x000A ∧ 10 ≤ opNum 0x000F ∧ opNum 0x0009 < 10 ∧
    (issue 0x000A State.reset).pending = [.issue 0x000A] := by decide

/-- StepRunsTheDecodedCommand. -/
theorem test_witness_decoded : (issue 0x0307 State.reset).pending = [.issue 0x0307] ∧
    decode 0x0307 = .ok (.cmp 0 3) := by decide

/-- HostActionsLeaveTheBlockAlone: each action at the head of the list, and none. -/
theorem test_witness_host : State.reset.pending = [] ∧
    (State.reset.setPending [.driveBigIn (-1)]).pending = [.driveBigIn (-1)] ∧
    (State.reset.setPending [.driveU64In 1]).pending = [.driveU64In 1] ∧
    (State.reset.setPending [.driveTxtIn []]).pending = [.driveTxtIn []] ∧
    (State.reset.setPending [.driveBinIn []]).pending = [.driveBinIn []] := by decide

/-- ResetLeavesTheResetState, from a state that is not the reset state. -/
theorem test_witness_reset : ((two patP ones).setPending [.reset]).pending = [.reset] := by decide

/-- StateInvariantIsKept and ReservedStatusBitsStayZero. -/
theorem test_witness_invariant : ∃ s t : State, s.Inv ∧ step s = .next t ∧ s.rsv = 0 ∧
    s.pending = .issue 0x0000 :: [] :=
  ⟨issue 0x0000 State.reset, State.reset,
    ⟨by decide, by decide, by decide, by decide, by decide, fun _ h => nomatch h⟩, rfl, by decide, rfl⟩

/-- NopClearsErr: opcode 0 with another bit set. -/
theorem test_witness_nop : opNum 0x0010 = 0 ∧ (0x0010 : CmdWord) ≠ 0 ∧ opNum 0x8000 = 0 := by decide

/-- DecompWritesTheBigEndianWords, DecompValueIsBigIn and DecompThenComposeGivesBigIn: both ends of the range, and just
past them. -/
theorem test_witness_decomp : (0 ≤ State.reset.bigIn ∧ State.reset.bigIn < 2 ^ 256) ∧
    (0 ≤ (State.reset.setBigIn (2 ^ 256 - 1)).bigIn ∧ (State.reset.setBigIn (2 ^ 256 - 1)).bigIn < 2 ^ 256) ∧
    (State.reset.setBigIn (-1)).bigIn < 0 ∧ 2 ^ 256 ≤ (State.reset.setBigIn (2 ^ 256)).bigIn := by decide

/-- ComposeJoinsTheHalves, EncWritesTheLimbsLittleEndian, FmtWritesTheShortestText, CmpFirstUnequalLimbDecides,
CmpAgreesWithTheNumericOrder, TextCodecRoundTrips and BinaryCodecRoundTrips: valid registers and an invalid one. -/
theorem test_witness_registers : (two patP ones).w[0] = some patP ∧ (two patP ones).w[1] = some ones ∧
    (two patP ones).w[2] = none := by decide

/-- DecReadsThirtyTwoBytes, DecValueIsTheByteSum and BinaryCodecRoundTrips: exactly 32 bytes, 31 and 0. -/
theorem test_witness_stream : 32 ≤ (State.reset.setBinIn (List.replicate 32 1)).binIn.length ∧
    (State.reset.setBinIn (List.replicate 31 1)).binIn.length < 32 ∧ State.reset.binIn.length < 32 := by decide

/-- DecValueIsTheByteSum, its second clause: a DEC that succeeds and one that does not. -/
theorem test_witness_dec : (∃ t, exec (.dec 0) (State.reset.setBinIn (List.replicate 32 1)) = .next t) ∧
    (∃ t, exec (.dec 0) State.reset = .next t) := ⟨⟨_, rfl⟩, ⟨_, rfl⟩⟩

/-- OnlyDecMovesTheStream: DEC on 32 bytes, DEC on none, an illegal word of DEC's opcode, and another command. -/
theorem test_witness_moves : (run 0x0006 (State.reset.setBinIn (List.replicate 32 1))).err = 0 ∧
    (run 0x0006 State.reset).err = 3 ∧ (run 0x0116 State.reset).err = 4 ∧ (run 0x0000 State.reset).err = 0 ∧
    step (issue 0x0006 State.reset) = .next (run 0x0006 State.reset) ∧ decode 0x0006 = .ok (.dec 0) :=
  ⟨by decide, by decide, by decide, by decide, rfl, by decide⟩

/-- CmpIsATotalOrder: three registers in ascending order, so that the transitive clause applies. -/
theorem test_witness_order :
    let s : State := { State.reset with w := #v[some ⟨0, 0, 0, 1⟩, some ⟨0, 0, 1, 0⟩, some ⟨1, 0, 0, 0⟩, none] }
    s.w[0] = some ⟨0, 0, 0, 1⟩ ∧ s.w[1] = some ⟨0, 0, 1, 0⟩ ∧ s.w[2] = some ⟨1, 0, 0, 0⟩ ∧
    cmpResult s 0 1 = some 0b11 ∧ cmpResult s 1 2 = some 0b11 ∧ cmpResult s 0 0 = some 0b00 := by decide

/-- ParseReadsANumeral, DecimalTextIsShortest: not a numeral; a numeral of value 2^256; the numeral "0". -/
theorem test_witness_parse : ¬ IsNumeral [] ∧ ¬ IsNumeral [0x2F] ∧ ¬ IsNumeral [0x3A] ∧ IsNumeral [0x30] ∧
    IsNumeral [0x39] ∧ decSum [0x30] = 0 ∧ IsNumeral ceilText ∧ 2 ^ 256 ≤ decSum ceilText ∧
    IsNumeral maxText ∧ decSum maxText < 2 ^ 256 := by
  unfold IsNumeral
  decide +kernel

/-- DecimalTextIsShortest and LimbsAndValueAreInverse: the ends of their ranges. -/
theorem test_witness_numbers : 0 < 1 ∧ 0 < 2 ^ 256 ∧ 2 ^ 256 - 1 < 2 ^ 256 := by decide

/-- ByteOrdersReadAsDefined: eight bytes. -/
theorem test_witness_bytes : ([1, 2, 3, 4, 5, 6, 7, 8] : List Byte).length = 8 ∧ 2 ^ 256 - 1 < 2 ^ 256 := by decide

/-- UnwrittenSourceRaisesUninit: a source of each command that reads one, the second source of CMP among them. -/
theorem test_witness_uninit : 2 ∈ sources (.compose 2) ∧ 2 ∈ sources (.enc 2) ∧ 2 ∈ sources (.fmt 2) ∧
    2 ∈ sources (.cmp 2 0) ∧ 2 ∈ sources (.cmp 0 2) ∧ (two patP ones).w[2] = none := by decide

/-- ValidIsSetByWritesAndClearedByReset: a write, a reset, and an idle step. -/
theorem test_witness_valid : step (issue 0x0004 State.reset) = .next (run 0x0004 State.reset) ∧
    (run 0x0004 State.reset).valid 0 = true ∧
    step ((two patP ones).setPending [.reset]) = .next State.reset ∧ step (two patP ones) = .next (two patP ones) ∧
    (two patP ones).valid 0 = true := ⟨rfl, by decide, rfl, rfl, by decide⟩

/-- CommandsWriteOnlyTheirItems and CommandsAreFunctionsOfTheirInputs: a command that answers, and two states that agree
on its inputs only. -/
theorem test_witness_writes : exec (.compose 0) (two patP ones) = .next (run 0x0003 (two patP ones)) ∧
    exec (.compose 0) (two patP patP) = .next (run 0x0003 (two patP patP)) ∧
    (∀ r ∈ sources (.compose 0), (two patP ones).w[r.val] = (two patP patP).w[r.val]) ∧
    (run 0x0003 (two patP ones)).err = 0 ∧ (∀ rd, Instr.compose 0 ≠ .dec rd) :=
  ⟨rfl, rfl, by decide, by decide, by decide⟩

/-- CommandsAreFunctionsOfTheirInputs, its last clause. -/
theorem test_witness_consumes : exec (.dec 0) (State.reset.setBinIn (List.replicate 32 1)) =
      .next (run 0x0006 (State.reset.setBinIn (List.replicate 32 1))) ∧
    (run 0x0006 (State.reset.setBinIn (List.replicate 32 1))).err = 0 := ⟨rfl, by decide⟩

/-- ErrorCausesAreExact, ErrorPriorityIsAsGiven and FailingCommandLeavesTheRest: a step for each code. -/
theorem test_witness_errors : (run 0x0002 (State.reset.setBigIn (-1))).err = 1 ∧
    (run 0x0008 (State.reset.setTxtIn [0x2D])).err = 2 ∧ (run 0x0006 State.reset).err = 3 ∧
    (run 0xFFFF State.reset).err = 4 ∧ (run 0x0009 State.reset).err = 5 ∧ (run 0x0001 State.reset).err = 0 ∧
    step (issue 0x0002 (State.reset.setBigIn (-1))) = .next (run 0x0002 (State.reset.setBigIn (-1))) ∧
    step (issue 0x0008 (State.reset.setTxtIn [0x2D])) = .next (run 0x0008 (State.reset.setTxtIn [0x2D])) :=
  ⟨by decide, by decide, by decide, by decide, by decide, by decide, rfl, rfl⟩

/-- ErrIsOverwrittenByEveryCommand: two states that differ in ERR alone. -/
theorem test_witness_overwritten : UnchangedExcept [.err] (issue 0x0000 State.reset)
    { issue 0x0000 State.reset with status := 0x0005 } := by
  intro x hx
  cases x <;> first | exact absurd (List.mem_singleton.2 rfl) hx | rfl | exact ⟨rfl, rfl⟩

/-- CmpFieldHoldsTheLastComparison, RngFieldHoldsTheLastRange, ConsumedCountsTheLastDec and
OutputRegistersHoldTheLastResult: the command that writes each succeeding, and another one. -/
theorem test_witness_fields : decode 0x0107 = .ok (.cmp 0 1) ∧ (run 0x0107 (two patP ones)).err = 0 ∧
    (run 0x0207 (two patP ones)).err = 5 ∧ decode 0x0001 = .ok .range ∧ decode 0x0000 ≠ .ok .range ∧
    decode 0x0005 = .ok (.enc 0) ∧ decode 0x0009 = .ok (.fmt 0) ∧ decode 0x0003 = .ok (.compose 0) ∧
    step (issue 0x0107 (two patP ones)) = .next (run 0x0107 (two patP ones)) ∧
    step (issue 0x0005 (two patP ones)) = .next (run 0x0005 (two patP ones)) ∧
    step (issue 0x0003 (two patP ones)) = .next (run 0x0003 (two patP ones)) :=
  ⟨by decide, by decide, by decide, by decide, by decide, by decide, by decide, by decide, rfl, rfl, rfl⟩

end Sys2Proof.Tests
end

section
/-! Values, byte orders and decimal text (00_scope.md R7 to R9 and R11): what `limbsOf`, `be64`, `le64`, `be32B`,
`decval` and `decText` compute, and the statements that rest on it. -/

namespace Sys2Proof.Machine

/-! ### Values and limbs (R7, R8) -/

theorem val_eq_valueOf (x : WideInt) : val x = valueOf x := by
  simp only [val, high, low, valueOf]
  omega

/-- The limbs of a number are consecutive 64-bit pieces, so they put it together again. -/
theorem val_limbsOf {n : Nat} (h : n < 2 ^ 256) : val (limbsOf n) = n := by
  simp only [val, high, low, limbsOf, BitVec.toNat_ofNat]
  omega

theorem limbsOf_val (x : WideInt) : limbsOf (val x) = x := by
  obtain ⟨l3, l2, l1, l0⟩ := x
  have h3 := l3.isLt; have h2 := l2.isLt; have h1 := l1.isLt; have h0 := l0.isLt
  simp only [limbsOf, val, high, low, WideInt.mk.injEq, ← BitVec.toNat_inj, BitVec.toNat_ofNat]
  omega

/-- Settles O37: the limbs of a number and the value of four limbs, each read in base 2^64. -/
theorem limbsAndValueAreInverse : Obligations.LimbsAndValueAreInverse :=
  ⟨fun _ h => val_limbsOf h, limbsOf_val, fun x => ⟨val_eq_valueOf x, Nat.le_pred_of_lt (val_lt x)⟩⟩

/-! ### Byte orders (R9) -/

theorem byteAt_reverse {b : List Byte} {i : Nat} (h : i < b.length) :
    byteAt b.reverse i = byteAt b (b.length - 1 - i) := by
  simp only [byteAt, List.getD_eq_getElem?_getD, List.getElem?_reverse h]

theorem beNat_eq_leNat_reverse (b : List Byte) : beNat b = leNat b.reverse := by
  rw [← beNat_reverse, List.reverse_reverse]

theorem beNat_lt (b : List Byte) : beNat b < 256 ^ b.length := by
  rw [beNat_eq_leNat_reverse, ← List.length_reverse]
  exact leNat_lt b.reverse

/-- The big-endian reading is the little-endian sum with its terms in the opposite order. -/
theorem beNat_eq_sum (b : List Byte) :
    beNat b = ∑ i ∈ Finset.range b.length, byteAt b i * 256 ^ (b.length - 1 - i) := by
  rw [beNat_eq_leNat_reverse, leNat_eq_sum, List.length_reverse, ← Finset.sum_range_reflect]
  refine Finset.sum_congr rfl fun i hi => ?_
  have hi := Finset.mem_range.1 hi
  rw [byteAt_reverse (by omega), Nat.sub_sub_self (by omega)]

/-- Eight bytes fit in 64 bits, so the reading cuts nothing off. -/
theorem be64_toNat {b : List Byte} (h : b.length = 8) : (be64 b).toNat = beNat b := by
  have := beNat_lt b
  rw [h] at this
  exact Nat.mod_eq_of_lt this

theorem le64_toNat {b : List Byte} (h : b.length = 8) : (le64 b).toNat = leNat b := by
  have := leNat_lt b
  rw [h] at this
  exact Nat.mod_eq_of_lt this

theorem be64_eq_be64Sum {b : List Byte} (h : b.length = 8) : (be64 b).toNat = be64Sum b 0 := by
  simp only [be64_toNat h, beNat_eq_sum, h, be64Sum, Nat.zero_add, pow_mul]
  rfl

theorem le64_eq_le64Sum {b : List Byte} (h : b.length = 8) : (le64 b).toNat = le64Sum b 0 := by
  simp only [le64_toNat h, leNat_eq_sum, h, le64Sum, Nat.zero_add, pow_mul]
  rfl

theorem byteAt_be32B (n : Nat) {i : Nat} (h : i < 32) : byteAt (be32B n) i = n / 2 ^ (8 * (31 - i)) % 256 := by
  simp [byteAt, be32B, h]

/-- Settles O38: the readings are the sums of `beNat` and `leNat`, and the image is given byte by byte. -/
theorem byteOrdersReadAsDefined : Obligations.ByteOrdersReadAsDefined :=
  ⟨fun _ h => ⟨be64_eq_be64Sum h, le64_eq_le64Sum h⟩, fun n _ => ⟨be32B_length n, fun _ h => byteAt_be32B n h⟩⟩

/-! ### The value of a digit sequence (R11) -/

theorem byteAt_append_left {t : List Byte} {i : Nat} (h : i < t.length) (u : List Byte) :
    byteAt (t ++ u) i = byteAt t i := by
  simp only [byteAt, List.getD_append _ _ _ _ h]

theorem byteAt_append_length (t : List Byte) (c : Byte) : byteAt (t ++ [c]) t.length = c.toNat := by
  simp [byteAt]

/-- One more digit multiplies the weight of every earlier one by ten, as it does in `decval`. -/
theorem decSum_append_singleton (t : List Byte) (c : Byte) : decSum (t ++ [c]) = decSum t * 10 + digval c := by
  have hlen : (t ++ [c]).length = t.length + 1 := by simp
  rw [decSum, hlen, Finset.sum_range_succ, byteAt_append_length, decSum, Finset.sum_mul]
  congr 1
  · refine Finset.sum_congr rfl fun i hi => ?_
    have hi := Finset.mem_range.1 hi
    rw [byteAt_append_left hi, mul_assoc, ← pow_succ]
    congr 2
    omega
  · simp [digval]

theorem decSum_singleton (c : Byte) : decSum [c] = digval c := by simp [decSum, digval]

theorem decval_eq_decSum (t : List Byte) : decval t = decSum t := by
  induction t using List.reverseRecOn with
  | nil => rfl
  | append_singleton t c ih => rw [decval_append_singleton, decSum_append_singleton, ih]

/-- A digit sequence of `k` digits has a value below `10 ^ k`. -/
theorem decSum_lt {t : List Byte} (h : ∀ c ∈ t, 0x30 ≤ c.toNat ∧ c.toNat ≤ 0x39) : decSum t < 10 ^ t.length := by
  induction t using List.reverseRecOn with
  | nil => simp [decSum]
  | append_singleton t c ih =>
    have hc := h c (by simp)
    have ht := ih fun d hd => h d (by simp [hd])
    simp only [decSum_append_singleton, digval, List.length_append, List.length_singleton, pow_succ]
    omega

/-! ### The text of a number (R11) -/

theorem digval_digitByte {d : Nat} (h : d < 10) : digval (digitByte d) = d := by
  rw [digval, digitByte_toNat h]
  omega

/-- Fuel for every digit of `n` is enough, whatever is left over. -/
theorem decAux_fuel {f g n : Nat} (hf : n < 10 ^ (f + 1)) (hg : n < 10 ^ (g + 1)) :
    decAux (f + 1) n [] = decAux (g + 1) n [] := by
  induction f generalizing g n with
  | zero => rw [decAux_step, decAux_step, if_pos (by simpa using hf), if_pos (by simpa using hf)]
  | succ f ih =>
    rw [decAux_step, decAux_step g]
    by_cases h : n < 10
    · rw [if_pos h, if_pos h]
    · rw [if_neg h, if_neg h]
      cases g with
      | zero => exact absurd (by simpa using hg) h
      | succ g => rw [ih (g := g) (by omega) (by omega)]

/-- `decText` gives `decAux` one unit of fuel per bit of `n`: enough for its digits. -/
theorem lt_ten_pow_succ_log2 (n : Nat) : n < 10 ^ (n.log2 + 1) :=
  Nat.lt_log2_self.trans_le (Nat.pow_le_pow_left (by decide) _)

theorem decText_of_lt {n : Nat} (h : n < 10) : decText n = [digitByte n] := by
  rw [decText, decAux_step, if_pos h]

/-- The text of a number of several digits is that of its quotient by ten, then the digit of the remainder. -/
theorem decText_of_ge {n : Nat} (h : 10 ≤ n) : decText n = decText (n / 10) ++ [digitByte (n % 10)] := by
  have hlog := lt_ten_pow_succ_log2 n
  have hfuel : decText n = decAux (n.log2 + 1 + 1) n [] := decAux_fuel hlog (by rw [pow_succ]; omega)
  rw [hfuel, decAux_step, if_neg (Nat.not_lt.2 h), decText,
    decAux_fuel (n := n / 10) (by omega) (lt_ten_pow_succ_log2 (n / 10))]

/-- Induction along the digits of a number: one digit, or one more than its quotient by ten. -/
theorem digitsInduction {P : Nat → Prop} (one : ∀ n < 10, P n) (more : ∀ n, 10 ≤ n → P (n / 10) → P n) (n : Nat) :
    P n := by
  induction n using Nat.strongRecOn with
  | ind n ih =>
    by_cases h : n < 10
    · exact one n h
    · exact more n (by omega) (ih _ (by omega))

theorem decText_ne_nil (n : Nat) : decText n ≠ [] := by
  by_cases h : n < 10
  · simp [decText_of_lt h]
  · simp [decText_of_ge (Nat.not_lt.1 h)]

theorem decText_isNumeral (n : Nat) : IsNumeral (decText n) := by
  refine ⟨decText_ne_nil n, ?_⟩
  induction n using digitsInduction with
  | one n h =>
    intro c hc
    obtain rfl : c = digitByte n := by simpa [decText_of_lt h] using hc
    rw [digitByte_toNat h]
    omega
  | more n h ih =>
    intro c hc
    rw [decText_of_ge h, List.mem_append, List.mem_singleton] at hc
    obtain hc | rfl := hc
    · exact ih c hc
    · rw [digitByte_toNat (Nat.mod_lt n (by decide))]
      omega

theorem decSum_decText (n : Nat) : decSum (decText n) = n := by
  induction n using digitsInduction with
  | one n h => rw [decText_of_lt h, decSum_singleton, digval_digitByte h]
  | more n h ih =>
    rw [decText_of_ge h, decSum_append_singleton, ih, digval_digitByte (Nat.mod_lt n (by decide))]
    omega

/-- A number below `10 ^ k` is written with at most `k` digits. -/
theorem decText_length_le {n k : Nat} (hk : 0 < k) (h : n < 10 ^ k) : (decText n).length ≤ k := by
  induction k generalizing n with
  | zero => exact absurd hk (Nat.lt_irrefl 0)
  | succ k ih =>
    by_cases hn : n < 10
    · simp [decText_of_lt hn]
    · have hk' : 0 < k := Nat.pos_of_ne_zero fun h0 => hn (by simpa [h0] using h)
      rw [decText_of_ge (Nat.not_lt.1 hn), List.length_append, List.length_singleton]
      exact Nat.succ_le_succ (ih hk' (by omega))

/-- A numeral of value `n` shows that `n` has no more digits than it: its value bounds `n`. -/
theorem decText_length_le_numeral {n : Nat} {t : List Byte} (ht : IsNumeral t) (h : decSum t = n) :
    (decText n).length ≤ t.length :=
  decText_length_le (List.length_pos_iff.2 ht.1) (h ▸ decSum_lt ht.2)

theorem decText_head_ne_zero {n : Nat} (h : 0 < n) : (decText n).head? ≠ some 0x30 := by
  induction n using digitsInduction with
  | one n hn =>
    intro hd
    have hb : digitByte n = 0x30 := by simpa [decText_of_lt hn] using hd
    have hval : (digitByte n).toNat = 0x30 := congrArg BitVec.toNat hb
    rw [digitByte_toNat hn] at hval
    omega
  | more n hn ih =>
    rw [decText_of_ge hn, List.head?_append_of_ne_nil _ (decText_ne_nil _)]
    exact ih (by omega)

/-- Settles O36: along the digits of `n`, with the length bounded by the value of any other numeral. -/
theorem decimalTextIsShortest : Obligations.DecimalTextIsShortest :=
  ⟨fun n => ⟨decText_isNumeral n, decSum_decText n, fun _ => decText_length_le_numeral⟩, rfl,
    fun _ => decText_head_ne_zero, fun t _ => decval_eq_decSum t⟩

end Sys2Proof.Machine
end

section
/-! What a command and a step can do, said once (10_state.md R13 to R29, 30_encoding.md R61): one rule per way a
command ends, one per action of the host, and the frames both leave. Each property of the state is read off these. -/

namespace Sys2Proof.Machine

/-! ### How a command ends -/

/-- The ways a command ends, each with its condition and the state it leaves. -/
inductive CommandRule (s : State) : Instr → State → Prop
  | uninit {i : Instr} {r : Reg} (hr : r ∈ sources i) (hw : s.w[r.val] = none) : CommandRule s i (s.raise .uninit)
  | nop : CommandRule s .nop (s.raise .none)
  | range : CommandRule s .range ((s.setRng (inRange s.bigIn)).raise .none)
  | decomp {rd : Reg} (h : 0 ≤ s.bigIn ∧ s.bigIn < 2 ^ 256) :
      CommandRule s (.decomp rd) ((s.writeW rd (decompose s.bigIn.toNat)).raise .none)
  | decompOutOfRange {rd : Reg} (h : ¬ (0 ≤ s.bigIn ∧ s.bigIn < 2 ^ 256)) :
      CommandRule s (.decomp rd) (s.raise .range)
  | compose {rs1 : Reg} {x : WideInt} (hx : s.w[rs1.val] = some x) :
      CommandRule s (.compose rs1) ((s.setBigOut (compose x)).raise .none)
  | ldu64 {rd : Reg} : CommandRule s (.ldu64 rd) ((s.writeW rd (zeroExtend64 s.u64In)).raise .none)
  | enc {rs1 : Reg} {x : WideInt} (hx : s.w[rs1.val] = some x) :
      CommandRule s (.enc rs1) ((s.setEncOut (encBytes x)).raise .none)
  | dec {rd : Reg} (h : 32 ≤ s.binIn.length) :
      CommandRule s (.dec rd)
        ((((s.streamAdvance 32).writeW rd (decBytes (s.streamPeek 32))).setConsumed 32).raise .none)
  | decShort {rd : Reg} (h : s.binIn.length < 32) : CommandRule s (.dec rd) (s.shortRead.raise .shortRead)
  | cmp {rs1 rs2 : Reg} {a b : WideInt} (ha : s.w[rs1.val] = some a) (hb : s.w[rs2.val] = some b) :
      CommandRule s (.cmp rs1 rs2) ((s.setCmp (cmpWide a b)).raise .none)
  | parse {rd : Reg} (h : IsNumeral s.txtIn) (hl : decval s.txtIn < 2 ^ 256) :
      CommandRule s (.parse rd) ((s.writeW rd (limbsOf (decval s.txtIn))).raise .none)
  | parseInvalid {rd : Reg} (h : ¬ IsNumeral s.txtIn) : CommandRule s (.parse rd) (s.raise .parse)
  | parseTooLarge {rd : Reg} (h : IsNumeral s.txtIn) (hl : 2 ^ 256 ≤ decval s.txtIn) :
      CommandRule s (.parse rd) (s.raise .range)
  | fmt {rs1 : Reg} {x : WideInt} (hx : s.w[rs1.val] = some x) :
      CommandRule s (.fmt rs1) ((s.setText (decText (val x))).raise .none)

/-- R16: an unwritten source ends the command, whichever of CMP's two it is. -/
theorem exec_uninit {i : Instr} {s : State} {r : Reg} (hr : r ∈ sources i) (hw : s.w[r.val] = none) :
    exec i s = .next (s.raise .uninit) := by
  cases i with
  | nop | range | decomp | ldu64 | dec | parse => exact absurd hr List.not_mem_nil
  | compose | enc | fmt =>
    obtain rfl := List.mem_singleton.1 hr
    exact withSource_none hw _
  | cmp rs1 rs2 =>
    obtain ⟨-, h⟩ | ⟨a, ha, h⟩ := withSource_cases s rs1
      fun a => withSource s rs2 fun b => .next (s.setCmp (cmpWide a b)).succeed
    · exact h
    · obtain rfl | rfl : r = rs1 ∨ r = rs2 := by simpa [sources] using hr
      · rw [hw] at ha
        cases ha
      · exact h.trans (withSource_none hw _)

/-- Every command answers, and as one of the rules says. -/
theorem exec_answers (i : Instr) (s : State) : ∃ t, exec i s = .next t ∧ CommandRule s i t := by
  by_cases hu : ∃ r ∈ sources i, s.w[r.val] = none
  · obtain ⟨r, hr, hw⟩ := hu
    exact ⟨_, exec_uninit hr hw, .uninit hr hw⟩
  have written : ∀ r ∈ sources i, ∃ x, s.w[r.val] = some x := fun r hr =>
    Option.ne_none_iff_exists'.1 fun hw => hu ⟨r, hr, hw⟩
  cases i with
  | nop => exact ⟨_, rfl, .nop⟩
  | range => exact ⟨_, rfl, .range⟩
  | decomp rd =>
    by_cases h : 0 ≤ s.bigIn ∧ s.bigIn < 2 ^ 256
    · exact ⟨_, exec_decomp_inRange rd h, .decomp h⟩
    · exact ⟨_, exec_decomp_outOfRange rd h, .decompOutOfRange h⟩
  | compose rs1 =>
    obtain ⟨x, hx⟩ := written rs1 (by simp [sources])
    exact ⟨_, exec_compose_valid hx, .compose hx⟩
  | ldu64 rd => exact ⟨_, rfl, .ldu64⟩
  | enc rs1 =>
    obtain ⟨x, hx⟩ := written rs1 (by simp [sources])
    exact ⟨_, exec_enc_valid hx, .enc hx⟩
  | dec rd =>
    obtain h | h := Nat.lt_or_ge s.binIn.length 32
    · exact ⟨_, exec_dec_short rd h, .decShort h⟩
    · exact ⟨_, exec_dec_enough rd h, .dec h⟩
  | cmp rs1 rs2 =>
    obtain ⟨a, ha⟩ := written rs1 (by simp [sources])
    obtain ⟨b, hb⟩ := written rs2 (by simp [sources])
    exact ⟨_, exec_cmp_valid ha hb, .cmp ha hb⟩
  | parse rd =>
    by_cases h : IsNumeral s.txtIn
    · obtain hl | hl := Nat.lt_or_ge (decval s.txtIn) (2 ^ 256)
      · exact ⟨_, exec_parse_value rd h hl, .parse h hl⟩
      · exact ⟨_, exec_parse_tooLarge rd h hl, .parseTooLarge h hl⟩
    · exact ⟨_, exec_parse_invalid rd h, .parseInvalid h⟩
  | fmt rs1 =>
    obtain ⟨x, hx⟩ := written rs1 (by simp [sources])
    exact ⟨_, exec_fmt_valid hx, .fmt hx⟩

theorem commandRule_of_exec {i : Instr} {s t : State} (h : exec i s = .next t) : CommandRule s i t := by
  obtain ⟨u, hu, hr⟩ := exec_answers i s
  rw [hu] at h
  cases h
  exact hr

/-! ### How a step ends -/

section
variable {s : State} {rest : List HostAction}

theorem step_idle (h : s.pending = []) : step s = .next s := by simp [step, State.take_idle h]

theorem step_driveBigIn {v : Int} (h : s.pending = .driveBigIn v :: rest) :
    step s = .next ((s.setPending rest).setBigIn v) := by simp [step, State.take, h]

theorem step_driveU64In {u : BitVec 64} (h : s.pending = .driveU64In u :: rest) :
    step s = .next ((s.setPending rest).setU64In u) := by simp [step, State.take, h]

theorem step_driveTxtIn {x : List Byte} (h : s.pending = .driveTxtIn x :: rest) :
    step s = .next ((s.setPending rest).setTxtIn x) := by simp [step, State.take, h]

theorem step_driveBinIn {b : List Byte} (h : s.pending = .driveBinIn b :: rest) :
    step s = .next ((s.setPending rest).setBinIn b) := by simp [step, State.take, h]

theorem step_reset (h : s.pending = .reset :: rest) : step s = .next (s.setPending rest).applyReset := by
  simp [step, State.take, h]

theorem step_command {c : CmdWord} {i : Instr} (h : s.pending = .issue c :: rest) (hd : decode c = .ok i) :
    step s = exec i (s.setPending rest) := by simp [step, State.take_command h hd]

theorem step_illegal {c : CmdWord} {why : IllegalWord} (h : s.pending = .issue c :: rest)
    (hd : decode c = .error why) : step s = .next ((s.setPending rest).raise .illegal) := by
  simp [step, State.take_illegal h hd, takeIllegal]

end

/-- The ways a step ends: one per action the host takes next, with a word legal or not. -/
inductive StepRule (s : State) : State → Prop
  | idle (h : s.pending = []) : StepRule s s
  | driveBigIn {v : Int} {rest : List HostAction} (h : s.pending = .driveBigIn v :: rest) :
      StepRule s ((s.setPending rest).setBigIn v)
  | driveU64In {u : BitVec 64} {rest : List HostAction} (h : s.pending = .driveU64In u :: rest) :
      StepRule s ((s.setPending rest).setU64In u)
  | driveTxtIn {x : List Byte} {rest : List HostAction} (h : s.pending = .driveTxtIn x :: rest) :
      StepRule s ((s.setPending rest).setTxtIn x)
  | driveBinIn {b : List Byte} {rest : List HostAction} (h : s.pending = .driveBinIn b :: rest) :
      StepRule s ((s.setPending rest).setBinIn b)
  | reset {rest : List HostAction} (h : s.pending = .reset :: rest) : StepRule s (s.setPending rest).applyReset
  | illegal {c : CmdWord} {rest : List HostAction} {why : IllegalWord} (h : s.pending = .issue c :: rest)
      (hd : decode c = .error why) : StepRule s ((s.setPending rest).raise .illegal)
  | command {c : CmdWord} {rest : List HostAction} {i : Instr} {t : State} (h : s.pending = .issue c :: rest)
      (hd : decode c = .ok i) (hr : CommandRule (s.setPending rest) i t) : StepRule s t

/-- Every step answers, and as one of the rules says. -/
theorem step_answers (s : State) : ∃ t, step s = .next t ∧ StepRule s t := by
  cases h : s.pending with
  | nil => exact ⟨_, step_idle h, .idle h⟩
  | cons a rest =>
    cases a with
    | driveBigIn v => exact ⟨_, step_driveBigIn h, .driveBigIn h⟩
    | driveU64In u => exact ⟨_, step_driveU64In h, .driveU64In h⟩
    | driveTxtIn x => exact ⟨_, step_driveTxtIn h, .driveTxtIn h⟩
    | driveBinIn b => exact ⟨_, step_driveBinIn h, .driveBinIn h⟩
    | reset => exact ⟨_, step_reset h, .reset h⟩
    | issue c =>
      cases hd : decode c with
      | error why => exact ⟨_, step_illegal h hd, .illegal h hd⟩
      | ok i =>
        obtain ⟨t, ht, hr⟩ := exec_answers i (s.setPending rest)
        exact ⟨t, (step_command h hd).trans ht, .command h hd hr⟩

theorem stepRule_of_step {s t : State} (h : step s = .next t) : StepRule s t := by
  obtain ⟨u, hu, hr⟩ := step_answers s
  rw [hu] at h
  cases h
  exact hr

/-- A step that takes a legal word ends as a rule of its command says. -/
theorem commandRule_of_step {s t : State} {c : CmdWord} {rest : List HostAction} {i : Instr}
    (hp : s.pending = .issue c :: rest) (hs : step s = .next t) (hd : decode c = .ok i) :
    CommandRule (s.setPending rest) i t :=
  commandRule_of_exec ((step_command hp hd).symm.trans hs)

/-! ### What each update leaves unchanged -/

section
variable {l : List StateItem} (s : State)

theorem UnchangedExcept.setConsumed (c : BitVec 8) (hl : .consumed ∈ l) : UnchangedExcept l s (s.setConsumed c) := by
  intro x hx
  cases x <;> simp [StateItem.Same]
  exact absurd hl hx

theorem UnchangedExcept.setEncOut (e : Vector Byte 32) (hl : .encOut ∈ l) : UnchangedExcept l s (s.setEncOut e) := by
  intro x hx
  cases x <;> simp [StateItem.Same]
  exact absurd hl hx

theorem UnchangedExcept.setText (t : List Byte) (hl : .txt ∈ l) : UnchangedExcept l s (s.setText t) := by
  intro x hx
  cases x <;> simp [StateItem.Same]
  exact absurd hl hx

theorem UnchangedExcept.setBigOut (n : Nat) (hl : .bigOut ∈ l) : UnchangedExcept l s (s.setBigOut n) := by
  intro x hx
  cases x <;> simp [StateItem.Same]
  exact absurd hl hx

theorem UnchangedExcept.setBigIn (v : Int) (hl : .bigIn ∈ l) : UnchangedExcept l s (s.setBigIn v) := by
  intro x hx
  cases x <;> simp [StateItem.Same]
  exact absurd hl hx

theorem UnchangedExcept.setU64In (u : BitVec 64) (hl : .u64In ∈ l) : UnchangedExcept l s (s.setU64In u) := by
  intro x hx
  cases x <;> simp [StateItem.Same]
  exact absurd hl hx

theorem UnchangedExcept.setTxtIn (t : List Byte) (hl : .txtIn ∈ l) : UnchangedExcept l s (s.setTxtIn t) := by
  intro x hx
  cases x <;> simp [StateItem.Same]
  exact absurd hl hx

theorem UnchangedExcept.setBinIn (b : List Byte) (hl : .binIn ∈ l) : UnchangedExcept l s (s.setBinIn b) := by
  intro x hx
  cases x <;> simp [StateItem.Same]
  exact absurd hl hx

theorem UnchangedExcept.nextDraw (hl : .draws ∈ l) : UnchangedExcept l s s.nextDraw := by
  intro x hx
  cases x <;> simp [StateItem.Same]
  exact absurd hl hx

/-- R37, R78: a short read moves the stream, writes CONSUMED and takes a draw. -/
theorem UnchangedExcept.shortRead (hb : .binIn ∈ l) (hc : .consumed ∈ l) (hd : .draws ∈ l) :
    UnchangedExcept l s s.shortRead :=
  ((setBinIn s _ hb).trans (setConsumed _ _ hc)).trans (nextDraw _ hd)

end

/-! ### What each command leaves unchanged -/

/-- R56: a command changes what its column "writes" names, and nothing else. -/
theorem CommandRule.frame {i : Instr} {s t : State} (h : CommandRule s i t) : UnchangedExcept (writes i) s t := by
  have err : StateItem.err ∈ writes i := by cases i <;> simp [writes]
  cases h with
  | uninit | nop | decompOutOfRange | parseInvalid | parseTooLarge => exact .raise s _ err
  | range => exact (UnchangedExcept.setRng s _ (by simp [writes])).trans (.raise _ _ err)
  | decomp | ldu64 | parse => exact (UnchangedExcept.writeW s _ _ (by simp [writes])).trans (.raise _ _ err)
  | compose => exact (UnchangedExcept.setBigOut s _ (by simp [writes])).trans (.raise _ _ err)
  | enc => exact (UnchangedExcept.setEncOut s _ (by simp [writes])).trans (.raise _ _ err)
  | @dec rd h =>
    have moved : UnchangedExcept (writes (.dec rd)) s (s.streamAdvance 32) := .setBinIn s _ (by simp [writes])
    have written := moved.trans (.writeW _ rd (decBytes (s.streamPeek 32)) (by simp [writes]))
    exact (written.trans (.setConsumed _ _ (by simp [writes]))).trans (.raise _ _ err)
  | decShort =>
    exact (UnchangedExcept.shortRead s (by simp [writes]) (by simp [writes]) (by simp [writes])).trans (.raise _ _ err)
  | cmp => exact (UnchangedExcept.setCmp s _ (by simp [writes])).trans (.raise _ _ err)
  | fmt => exact (UnchangedExcept.setText s _ (by simp [writes])).trans (.raise _ _ err)

/-- R94: a command that fails changes ERR, and with it no more than a short read does. -/
theorem CommandRule.failing_frame {i : Instr} {s t : State} (h : CommandRule s i t) (he : t.err ≠ 0) :
    UnchangedExcept [.err, .consumed, .binIn, .draws] s t := by
  cases h with
  | uninit | decompOutOfRange | parseInvalid | parseTooLarge => exact .raise s _ (by simp)
  | decShort => exact (UnchangedExcept.shortRead s (by simp) (by simp) (by simp)).trans (.raise _ _ (by simp))
  | nop | range | decomp | compose | ldu64 | enc | dec | cmp | parse | fmt => exact absurd (State.raise_err _ .none) he

/-! ### Which command writes an item (R29) -/

section
variable {i : Instr}

theorem cmp_mem_writes : .cmp ∈ writes i ↔ ∃ rs1 rs2, i = .cmp rs1 rs2 := by cases i <;> simp [writes]

theorem rng_mem_writes : .rng ∈ writes i ↔ i = .range := by cases i <;> simp [writes]

theorem rsv_notMem_writes : .rsv ∉ writes i := by cases i <;> simp [writes]

theorem consumed_mem_writes : .consumed ∈ writes i ↔ ∃ rd, i = .dec rd := by cases i <;> simp [writes]

theorem encOut_mem_writes : .encOut ∈ writes i ↔ ∃ rs1, i = .enc rs1 := by cases i <;> simp [writes]

theorem txt_mem_writes : .txt ∈ writes i ↔ ∃ rs1, i = .fmt rs1 := by cases i <;> simp [writes]

theorem bigOut_mem_writes : .bigOut ∈ writes i ↔ ∃ rs1, i = .compose rs1 := by cases i <;> simp [writes]

end

/-! ### What a word leaves unchanged -/

/-- A word leaves an item alone that the command it stands for, if any, does not write. -/
theorem step_issue_same {s t : State} {c : CmdWord} {rest : List HostAction} {x : StateItem}
    (hp : s.pending = .issue c :: rest) (hs : step s = .next t) (hx : x ∉ [.err, .pending])
    (hw : ∀ i, decode c = .ok i → x ∉ writes i) : x.Same s t := by
  have taken : UnchangedExcept [.err, .pending] s (s.setPending rest) := .setPending s rest (by simp)
  cases hd : decode c with
  | error why =>
    rw [step_illegal hp hd] at hs
    cases hs
    exact taken.trans (.raise _ _ (by simp)) x hx
  | ok i =>
    have done : UnchangedExcept (.pending :: writes i) s t :=
      (UnchangedExcept.setPending s rest (by simp)).trans
        ((commandRule_of_step hp hs hd).frame.mono (List.subset_cons_self _ _))
    exact done x (by simp_all)

/-- R94, for a step: a word that fails, legal or not, changes no more than a short read does. -/
theorem step_issue_failing {s t : State} {c : CmdWord} {rest : List HostAction} (hp : s.pending = .issue c :: rest)
    (hs : step s = .next t) (he : t.err ≠ 0) : UnchangedExcept [.err, .pending, .consumed, .binIn, .draws] s t := by
  have taken := UnchangedExcept.setPending (l := [.err, .pending, .consumed, .binIn, .draws]) s rest (by simp)
  cases hd : decode c with
  | error why =>
    rw [step_illegal hp hd] at hs
    cases hs
    exact taken.trans (.raise _ _ (by simp))
  | ok i => exact taken.trans (((commandRule_of_step hp hs hd).failing_frame he).mono (by simp))

/-- A word leaves an item alone that is written by a success only, unless it stands for a command that writes it and
succeeds. -/
theorem step_issue_kept {s t : State} {c : CmdWord} {rest : List HostAction} {x : StateItem}
    (hp : s.pending = .issue c :: rest) (hs : step s = .next t)
    (hx : x ∉ [.err, .pending, .consumed, .binIn, .draws])
    (h : (∀ i, decode c = .ok i → x ∉ writes i) ∨ t.err ≠ 0) : x.Same s t :=
  h.elim (step_issue_same hp hs (by simp_all)) fun he => step_issue_failing hp hs he x hx

end Sys2Proof.Machine
end

section
/-! The block's state as the host sees it (10_state.md): STATUS by fields, the valid bits, CONSUMED, the output
registers, and the invariant every step keeps. -/

namespace Sys2Proof.Machine

/-! ### The bytes of an encoding (R39, R72) -/

/-- A limb is 64 bits of the value. -/
theorem limb_toNat (x : WideInt) {k : Nat} (h : k < 4) : (limb x k).toNat = val x / 2 ^ (64 * k) % 2 ^ 64 := by
  have := x.l3.isLt; have := x.l2.isLt; have := x.l1.isLt; have := x.l0.isLt
  simp only [val, high, low]
  interval_cases k <;> simp only [limb] <;> omega

/-- Bits past `k` in a piece of `k + l` bits or more from `m` on are bits from `m + k` on. -/
theorem piece_of_piece (n m k : Nat) {j l : Nat} (h : k + l ≤ j) :
    n / 2 ^ m % 2 ^ j / 2 ^ k % 2 ^ l = n / 2 ^ (m + k) % 2 ^ l := by
  obtain ⟨d, rfl⟩ := Nat.exists_eq_add_of_le h
  rw [add_assoc, pow_add 2 k, Nat.mod_mul_right_div_self, pow_add 2 l, Nat.mod_mul_right_mod, Nat.div_div_eq_div_mul,
    ← pow_add]

/-- The encoding is the little-endian image of the value, byte by byte. -/
theorem byteAt_encBytes (x : WideInt) {i : Nat} (h : i < 32) :
    byteAt (encBytes x).toList i = val x / 256 ^ i % 256 := by
  have hbyte : byteAt (encBytes x).toList i = (limb x (i / 8)).toNat / 2 ^ (8 * (i % 8)) % 2 ^ 8 := by
    simp [byteAt, encBytes, h, Nat.shiftRight_eq_div_pow]
  have hplace : 64 * (i / 8) + 8 * (i % 8) = 8 * i := by omega
  rw [hbyte, limb_toNat x (by omega), piece_of_piece _ _ _ (by omega), hplace, pow_mul]
  rfl

/-- A number is the sum of its digits, as far as they are taken. -/
theorem sum_digits (n b k : Nat) : ∑ i ∈ Finset.range k, n / b ^ i % b * b ^ i = n % b ^ k := by
  induction k with
  | zero => simp [Nat.mod_one]
  | succ k ih => rw [Finset.sum_range_succ, ih, Nat.mod_pow_succ, mul_comm (b ^ k)]

theorem valueOf_lt (x : WideInt) : valueOf x < 2 ^ 256 := val_eq_valueOf x ▸ val_lt x

theorem valueOf_eq_sum_encBytes (x : WideInt) :
    valueOf x = ∑ i ∈ Finset.range 32, byteAt (encBytes x).toList i * 2 ^ (8 * i) := by
  calc valueOf x = val x % 256 ^ 32 := by rw [← val_eq_valueOf]; exact (Nat.mod_eq_of_lt (val_lt x)).symm
    _ = ∑ i ∈ Finset.range 32, val x / 256 ^ i % 256 * 256 ^ i := (sum_digits _ _ _).symm
    _ = _ := Finset.sum_congr rfl fun i hi => by
      rw [byteAt_encBytes x (Finset.mem_range.1 hi), pow_mul]; rfl

/-! ### The text in TXT_OUT (R24, R88) -/

theorem padText_get (t : List Byte) (i : Nat) (h : i < 78) : (padText t)[i] = t.getD i 0 := by
  simp [padText]

/-- The register holds the text before its padding. -/
theorem padText_take {t : List Byte} (h : t.length ≤ 78) : (padText t).toList.take t.length = t := by
  refine List.ext_getElem (by simp [h]) fun i hi ht => ?_
  simp [padText_get, ht]

/-- 2^256 has 78 digits, so every value is written with at most as many. -/
theorem decText_val_length (x : WideInt) : (decText (val x)).length ≤ 78 :=
  decText_length_le (by decide) ((val_lt x).trans (by decide))

theorem setText_txtLen_toNat (s : State) {t : List Byte} (h : t.length ≤ 78) :
    (s.setText t).txtLen.toNat = t.length := by
  rw [State.setText_txtLen, BitVec.toNat_ofNat]
  omega

theorem holdsText_decText {n : Nat} (h : (decText n).length ≤ 78) :
    HoldsText (padText (decText n)) (decText n).length := by
  refine ⟨List.length_pos_iff.2 (decText_ne_nil n), h, fun i => ?_, fun hzero => ?_⟩
  · rw [padText_get _ _ i.isLt]
    split_ifs with hi
    · rw [List.getD_eq_getElem _ _ hi]
      exact (decText_isNumeral n).2 _ (List.getElem_mem hi)
    · exact List.getD_eq_default _ _ (Nat.not_lt.1 hi)
  · obtain rfl | hn := Nat.eq_zero_or_pos n
    · rfl
    · have hpos := List.length_pos_iff.2 (decText_ne_nil n)
      rw [padText_get _ _ (by decide), List.getD_eq_getElem _ _ hpos] at hzero
      exact absurd (by rw [List.head?_eq_getElem?, List.getElem?_eq_getElem hpos, hzero]) (decText_head_ne_zero hn)

/-! ### The codes CMP and RANGE leave (R19, R20) -/

/-- R82's loop compares by the first limb before the rest: a limb outweighs all that the later limbs can add. -/
theorem cmpLimbs_cons_eq_compare {rest : List (Limb × Limb)} {m n k : Nat} (h : cmpLimbs rest = compare m n)
    (hm : m < k) (hn : n < k) (a b : Limb) :
    cmpLimbs ((a, b) :: rest) = compare (a.toNat * k + m) (b.toNat * k + n) := by
  have outweighs : ∀ {p q r t : Nat}, p < q → r < k → p * k + r < q * k + t := fun {p q r t} hpq hr => by
    have := Nat.mul_le_mul_right k (Nat.succ_le_of_lt hpq)
    rw [Nat.succ_mul] at this
    omega
  rw [cmpLimbs_cons, h]
  obtain hab | hab | hab := Nat.lt_trichotomy a.toNat b.toNat
  · rw [if_pos hab, Nat.compare_eq_lt.2 (outweighs hab hm)]
  · rw [if_neg hab.not_lt, if_neg hab.not_gt, hab]
    obtain hmn | rfl | hmn := Nat.lt_trichotomy m n
    · rw [Nat.compare_eq_lt.2 hmn, Nat.compare_eq_lt.2 (Nat.add_lt_add_left hmn _)]
    · rw [Nat.compare_eq_eq.2 rfl, Nat.compare_eq_eq.2 rfl]
    · rw [Nat.compare_eq_gt.2 hmn, Nat.compare_eq_gt.2 (Nat.add_lt_add_left hmn _)]
  · rw [if_neg hab.not_gt, if_pos hab, Nat.compare_eq_gt.2 (outweighs hab hn)]

/-- CMP compares the values. -/
theorem cmpWide_eq_compare (x y : WideInt) : cmpWide x y = compare (valueOf x) (valueOf y) := by
  have := x.l2.isLt; have := x.l1.isLt; have := x.l0.isLt
  have := y.l2.isLt; have := y.l1.isLt; have := y.l0.isLt
  have zero : cmpLimbs [] = compare 0 0 := rfl
  have one := cmpLimbs_cons_eq_compare zero Nat.one_pos Nat.one_pos x.l0 y.l0
  have two := cmpLimbs_cons_eq_compare (k := 2 ^ 64) one (by omega) (by omega) x.l1 y.l1
  have three := cmpLimbs_cons_eq_compare (k := 2 ^ 128) two (by omega) (by omega) x.l2 y.l2
  have four := cmpLimbs_cons_eq_compare (k := 2 ^ 192) three (by omega) (by omega) x.l3 y.l3
  simpa only [cmpWide, valueOf, Nat.add_assoc, Nat.mul_one, Nat.add_zero] using four

theorem cmpCode_compare (m n : Nat) :
    cmpCode (compare m n) = if m = n then 0b00 else if n < m then 0b01 else 0b11 := by
  obtain h | h | h := Nat.lt_trichotomy m n
  · rw [Nat.compare_eq_lt.2 h, if_neg h.ne, if_neg h.not_gt]; rfl
  · rw [Nat.compare_eq_eq.2 h, if_pos h]; rfl
  · rw [Nat.compare_eq_gt.2 h, if_neg h.ne', if_pos h]; rfl

theorem ofBool_inRange (v : Int) : BitVec.ofBool (inRange v) = if 0 ≤ v ∧ v < 2 ^ 256 then 1 else 0 := by
  split_ifs with h
  · rw [(inRange_iff v).2 h]; rfl
  · rw [Bool.eq_false_iff.2 fun h' => h ((inRange_iff v).1 h')]; rfl

/-! ### The invariant (R17 to R19, R21, R24, R25) -/

section
variable {s : State}

/-- The invariant speaks of STATUS, the text and BIG_OUT alone. -/
theorem State.Inv.of_eq {t : State} (h : s.Inv) (hs : t.status = s.status) (ho : t.txtOut = s.txtOut)
    (hl : t.txtLen = s.txtLen) (hb : t.bigOut = s.bigOut) : t.Inv where
  errLegal := by rw [State.err, hs]; exact h.errLegal
  cmpLegal := by rw [State.cmp, hs]; exact h.cmpLegal
  rsvZero := by rw [State.rsv, hs]; exact h.rsvZero
  bigOutRange := by rw [hb]; exact h.bigOutRange
  textNone := by rw [ho, hl]; exact h.textNone
  textSome := by rw [ho, hl]; exact h.textSome

theorem Err.code_le (e : Err) : e.code.toNat ≤ 5 := by cases e <;> decide

theorem State.Inv.raise (h : s.Inv) (e : Err) : (s.raise e).Inv :=
  { h with
    errLegal := by rw [State.raise_err]; exact e.code_le
    cmpLegal := by rw [State.raise_cmp]; exact h.cmpLegal
    rsvZero := by rw [State.raise_rsv]; exact h.rsvZero }

theorem State.Inv.setCmp (h : s.Inv) (o : Ordering) : (s.setCmp o).Inv :=
  { h with
    errLegal := by simpa [State.err] using h.errLegal
    cmpLegal := by simpa using cmpCode_ne_two o
    rsvZero := by simpa [State.rsv] using h.rsvZero }

theorem State.Inv.setRng (h : s.Inv) (b : Bool) : (s.setRng b).Inv :=
  { h with
    errLegal := by simpa [State.err] using h.errLegal
    cmpLegal := by simpa [State.cmp] using h.cmpLegal
    rsvZero := by simpa [State.rsv] using h.rsvZero }

theorem State.Inv.setBigOut (h : s.Inv) {n : Nat} (hn : n < 2 ^ 256) : (s.setBigOut n).Inv :=
  { h with bigOutRange := fun _ hm => Option.some.inj hm ▸ hn }

theorem State.Inv.setText (h : s.Inv) {n : Nat} (hn : (decText n).length ≤ 78) : (s.setText (decText n)).Inv :=
  { h with
    textNone := nofun
    textSome := fun b hb => by
      obtain rfl := Option.some.inj hb
      rw [setText_txtLen_toNat s hn]
      exact holdsText_decText hn }

theorem State.reset_inv : State.reset.Inv where
  errLegal := by decide
  cmpLegal := by decide
  rsvZero := by decide
  bigOutRange := nofun
  textNone _ := rfl
  textSome := nofun

theorem CommandRule.inv {i : Instr} {t : State} (hr : CommandRule s i t) (h : s.Inv) : t.Inv := by
  cases hr with
  | uninit | nop | decompOutOfRange | parseInvalid | parseTooLarge => exact h.raise _
  | range => exact (h.setRng _).raise _
  | decomp | ldu64 | parse | enc | dec | decShort =>
    refine State.Inv.raise ?_ _
    exact h.of_eq rfl rfl rfl rfl
  | compose => exact (h.setBigOut (val_lt _)).raise _
  | cmp => exact (h.setCmp _).raise _
  | fmt => exact (h.setText (decText_val_length _)).raise _

end

/-- Settles O13: each update keeps the invariant, and so does each rule of a step. -/
theorem stateInvariantIsKept : Obligations.StateInvariantIsKept := by
  intro s t h hs
  cases stepRule_of_step hs with
  | idle => exact h
  | driveBigIn | driveU64In | driveTxtIn | driveBinIn => exact h.of_eq rfl rfl rfl rfl
  | reset => exact State.reset_inv.of_eq rfl rfl rfl rfl
  | @illegal _ rest =>
    have taken : (s.setPending rest).Inv := h.of_eq rfl rfl rfl rfl
    exact taken.raise _
  | command _ _ hr => exact hr.inv (h.of_eq rfl rfl rfl rfl)

/-! ### STATUS (R17, R19 to R21) -/

/-- Settles O16: STATUS is the sum of its fields at their places. -/
theorem hostReadOfStatusShowsItsFields : Obligations.HostReadOfStatusShowsItsFields := fun s =>
  congrArg (fun n => some (HostValue.number n)) (status_toNat_fields s.status)

/-- Settles O15: no command writes the reserved bits, and reset clears them. -/
theorem reservedStatusBitsStayZero : Obligations.ReservedStatusBitsStayZero := by
  refine ⟨rfl, fun s t hs => ?_⟩
  have issued : ∀ c rest, s.pending = .issue c :: rest → t.rsv = s.rsv := fun c rest hp =>
    step_issue_same (x := .rsv) hp hs (by simp) fun _ _ => rsv_notMem_writes
  refine ⟨fun h => ?_, issued⟩
  cases stepRule_of_step hs with
  | idle | driveBigIn | driveU64In | driveTxtIn | driveBinIn => exact h
  | reset => exact State.reset_inv.rsvZero
  | illegal hp | command hp => exact (issued _ _ hp).trans h

/-- Settles O46: the rule of a CMP that succeeds gives the code; every other word leaves it by the frames. -/
theorem cmpFieldHoldsTheLastComparison : Obligations.CmpFieldHoldsTheLastComparison := by
  refine fun s t c rest hp hs => ⟨fun rs1 rs2 hd he => ?_, ?_⟩
  · cases commandRule_of_step hp hs hd with
    | uninit => cases he.symm.trans (State.raise_err _ _)
    | @cmp _ _ a b ha hb => exact ⟨a, b, ha, hb, by simp [cmpWide_eq_compare, cmpCode_compare]⟩
  · refine fun h => step_issue_kept (x := .cmp) hp hs (by simp) (h.imp_left fun hother i hd hw => ?_)
    obtain ⟨rs1, rs2, rfl⟩ := cmp_mem_writes.1 hw
    exact hother ⟨rs1, rs2, hd⟩

/-- Settles O47: the rule of RANGE gives the bit; every other word leaves it by the frame. -/
theorem rngFieldHoldsTheLastRange : Obligations.RngFieldHoldsTheLastRange := by
  refine fun s t c rest hp hs => ⟨fun hd => ?_, fun hother => ?_, fun rd hd hout => ?_⟩
  · cases commandRule_of_step hp hs hd with
    | uninit hr => exact absurd hr List.not_mem_nil
    | range => simp [ofBool_inRange]
  · refine step_issue_same (x := .rng) hp hs (by simp) fun i hd hw => ?_
    exact hother (rng_mem_writes.1 hw ▸ hd)
  · have hexec := exec_decomp_outOfRange (s := s.setPending rest) rd fun h => by
      obtain ⟨h0, h1⟩ : 0 ≤ s.bigIn ∧ s.bigIn < 2 ^ 256 := h
      omega
    rw [step_command hp hd, hexec] at hs
    cases hs
    exact State.raise_err _ _

/-! ### VALID (R15, R16) -/

/-- Settles O39: an unwritten source ends the command with ERR alone written. -/
theorem unwrittenSourceRaisesUninit : Obligations.UnwrittenSourceRaisesUninit := fun _ s _ hr hw =>
  ⟨_, exec_uninit hr hw, State.raise_err s .uninit, .raise s .uninit (by simp)⟩

section
variable {s t : State}

theorem State.valid_of_w_set {rd : Reg} {v : WideInt} (h : t.w = s.w.set rd.val (some v)) (r : Reg) :
    t.valid r = true ↔ s.valid r = true ∨ r = rd := by
  by_cases hr : rd = r
  · simp [State.valid, State.readW, h, hr]
  · have hne : rd.val ≠ r.val := fun hv => hr (Fin.ext hv)
    simp [State.valid, State.readW, h, hne, Ne.symm hr]

/-- R15: a command sets VALID of the register it writes, if it succeeds, and clears none. -/
theorem CommandRule.valid_iff {i : Instr} (h : CommandRule s i t) (r : Reg) :
    t.valid r = true ↔ s.valid r = true ∨ (r ∈ dests i ∧ t.err = 0) := by
  cases h with
  | uninit | decompOutOfRange | parseInvalid | parseTooLarge => simp [State.valid, State.readW, Err.code]
  | decShort => simp [State.valid, State.readW, State.shortRead_eq, Err.code]
  | nop | range | compose | enc | cmp | fmt => simp [State.valid, State.readW, dests]
  | decomp | ldu64 | parse | dec => exact Iff.trans (State.valid_of_w_set (s := s) rfl r) (by simp [dests, Err.code])

end

/-- Settles O40: reset alone clears the bits, and of the other steps only a command sets one. -/
theorem validIsSetByWritesAndClearedByReset : Obligations.ValidIsSetByWritesAndClearedByReset := by
  refine ⟨by decide, fun s t r hs => ?_⟩
  cases stepRule_of_step hs with
  | idle hp => simp [hp]
  | driveBigIn hp | driveU64In hp | driveTxtIn hp | driveBinIn hp => simp [hp, State.valid, State.readW]
  | reset hp => simp [hp, State.valid, State.readW]
  | illegal hp hd => simp [hp, hd, State.valid, State.readW]
  | command hp hd hr =>
    rw [hr.valid_iff r]
    simp [hp, hd, State.valid, State.readW]

/-! ### CONSUMED and the output registers (R22 to R25) -/

/-- Settles O48: a DEC that succeeds ends by its rule; another word leaves CONSUMED by the frame. -/
theorem consumedCountsTheLastDec : Obligations.ConsumedCountsTheLastDec := by
  refine ⟨rfl, fun s t c rest hp hs => ⟨?_, fun hother => ?_⟩⟩
  · rintro ⟨rd, hd⟩ he
    cases commandRule_of_step hp hs hd with
    | uninit hr => exact absurd hr List.not_mem_nil
    | dec => rfl
    | decShort => cases he.symm.trans (State.raise_err _ _)
  · refine step_issue_same (x := .consumed) hp hs (by simp) fun i hd hw => ?_
    obtain ⟨rd, rfl⟩ := consumed_mem_writes.1 hw
    exact hother ⟨rd, hd⟩

/-- Settles O49: the rules of ENC, FMT and COMPOSE give the results; every other word, and a word that fails, leaves
each register by the frames. -/
theorem outputRegistersHoldTheLastResult : Obligations.OutputRegistersHoldTheLastResult := by
  refine ⟨⟨rfl, rfl, rfl, rfl⟩, fun s t c rest hp hs =>
    ⟨fun rs1 x hd hx => ?_, ?_, fun rs1 x hd hx => ?_, ?_, fun rs1 x hd hx => ?_, ?_⟩⟩
  · rw [step_command hp hd, exec_enc_valid (s := s.setPending rest) hx] at hs
    cases hs
    exact ⟨_, rfl, valueOf_eq_sum_encBytes x⟩
  · refine fun h => step_issue_kept (x := .encOut) hp hs (by simp) (h.imp_left fun hother i hd hw => ?_)
    obtain ⟨rs1, rfl⟩ := encOut_mem_writes.1 hw
    exact hother ⟨rs1, hd⟩
  · rw [step_command hp hd, exec_fmt_valid (s := s.setPending rest) hx] at hs
    cases hs
    have hlen := decText_val_length x
    have htxt := setText_txtLen_toNat (s.setPending rest) hlen
    refine ⟨_, rfl, ?_⟩
    rw [State.raise_txtLen, htxt, padText_take hlen, decSum_decText, val_eq_valueOf]
    exact ⟨val_eq_valueOf x ▸ holdsText_decText hlen, rfl⟩
  · refine fun h => step_issue_kept (x := .txt) hp hs (by simp) (h.imp_left fun hother i hd hw => ?_)
    obtain ⟨rs1, rfl⟩ := txt_mem_writes.1 hw
    exact hother ⟨rs1, hd⟩
  · rw [step_command hp hd, exec_compose_valid (s := s.setPending rest) hx] at hs
    cases hs
    exact ⟨congrArg some (val_eq_valueOf x), Nat.le_pred_of_lt (valueOf_lt x)⟩
  · refine fun h => step_issue_kept (x := .bigOut) hp hs (by simp) (h.imp_left fun hother i hd hw => ?_)
    obtain ⟨rs1, rfl⟩ := bigOut_mem_writes.1 hw
    exact hother ⟨rs1, hd⟩

/-! ### The step and the host's other actions (R26, R29, R100) -/

/-- Settles O8: the equation of the step for a legal word. -/
theorem stepRunsTheDecodedCommand : Obligations.StepRunsTheDecodedCommand := fun _ _ _ _ => step_command

/-- Settles O11: one equation of the step per action, and the frame of the port it drives. -/
theorem hostActionsLeaveTheBlockAlone : Obligations.HostActionsLeaveTheBlockAlone :=
  ⟨fun s hp => ⟨s, step_idle hp, .refl _ s⟩,
    fun s rest v hp => ⟨_, step_driveBigIn hp, rfl, rfl,
      (UnchangedExcept.setPending s rest (by simp)).trans (.setBigIn _ v (by simp))⟩,
    fun s rest u hp => ⟨_, step_driveU64In hp, rfl, rfl,
      (UnchangedExcept.setPending s rest (by simp)).trans (.setU64In _ u (by simp))⟩,
    fun s rest x hp => ⟨_, step_driveTxtIn hp, rfl, rfl,
      (UnchangedExcept.setPending s rest (by simp)).trans (.setTxtIn _ x (by simp))⟩,
    fun s rest b hp => ⟨_, step_driveBinIn hp, rfl, rfl,
      (UnchangedExcept.setPending s rest (by simp)).trans (.setBinIn _ b (by simp))⟩⟩

end Sys2Proof.Machine
end

section
/-! Memory and streams (20_memory.md): the byte image of a register (R40), the stream only DEC moves (R37), and commands
as functions of their inputs (R45). -/

namespace Sys2Proof.Machine

/-! ### The image of a value (R40, R72) -/

theorem byteAt_encBytes_valueOf (x : WideInt) {i : Nat} (h : i < 32) :
    byteAt (encBytes x).toList i = valueOf x / 2 ^ (8 * i) % 256 := by
  rw [byteAt_encBytes x h, val_eq_valueOf, pow_mul]
  rfl

/-- Sequences of one length with the same bytes as numbers are the same. -/
theorem eq_of_byteAt_eq {a b : List Byte} (hl : a.length = b.length)
    (h : ∀ i < a.length, byteAt a i = byteAt b i) : a = b := by
  refine List.ext_getElem hl fun i ha hb => BitVec.eq_of_toNat_eq ?_
  simpa only [byteAt, List.getD_eq_getElem _ _ ha, List.getD_eq_getElem _ _ hb] using h i ha

/-- The two byte orders meet: byte `i` of the one image is byte `31 - i` of the other. -/
theorem encBytes_eq_reverse_be32B (x : WideInt) : (encBytes x).toList = (be32B (valueOf x)).reverse := by
  refine eq_of_byteAt_eq (by simp [be32B_length]) fun i hi => ?_
  have hi : i < 32 := by simpa using hi
  have hplace : 31 - (32 - 1 - i) = i := by omega
  rw [byteAt_encBytes_valueOf x hi, byteAt_reverse (by rwa [be32B_length]), be32B_length,
    byteAt_be32B _ (by omega), hplace]

/-- Settles O25: byte by byte, then by the two images' places. -/
theorem encodingIsTheLittleEndianImage : Obligations.EncodingIsTheLittleEndianImage := fun x =>
  ⟨fun _ h => byteAt_encBytes_valueOf x h, encBytes_eq_reverse_be32B x⟩

/-! ### The stream (R37, R78) -/

theorem binIn_mem_writes {i : Instr} : .binIn ∈ writes i ↔ ∃ rd, i = .dec rd := by cases i <;> simp [writes]

theorem draws_mem_writes {i : Instr} : .draws ∈ writes i ↔ ∃ rd, i = .dec rd := by cases i <;> simp [writes]

/-- The two ways a DEC leaves the stream: 32 bytes on, or on a short read at an open position within it. -/
theorem CommandRule.dec_stream {s t : State} {rd : Reg} (h : CommandRule s (.dec rd) t) :
    (t.err = 0 ∧ 32 ≤ s.binIn.length ∧ t.binIn = s.binIn.drop 32) ∨
    (t.err = 3 ∧ s.binIn.length < 32 ∧ ∃ k ≤ s.binIn.length, t.binIn = s.binIn.drop k) := by
  cases h with
  | uninit hr => exact absurd hr List.not_mem_nil
  | dec h => exact .inl ⟨State.raise_err _ _, h, rfl⟩
  | decShort h => exact .inr ⟨State.raise_err _ _, h, _, s.drawAdvance_le, rfl⟩

/-- Settles O29: the rules of DEC give the new position; every other word leaves the stream by its frame. -/
theorem onlyDecMovesTheStream : Obligations.OnlyDecMovesTheStream := by
  refine fun s t c rest hp hs => ⟨?_, fun hother => ?_⟩
  · rintro ⟨rd, hd⟩
    exact (commandRule_of_step hp hs hd).dec_stream
  · refine step_issue_same (x := .binIn) hp hs (by simp) fun i hd hw => ?_
    obtain ⟨rd, rfl⟩ := binIn_mem_writes.1 hw
    exact hother ⟨rd, hd⟩

/-! ### Commands as functions of their inputs (R45) -/

/-- Two states that agree on the ports a command samples and on the registers it reads (R45). DEC's stream is left out,
since these are the inputs of the other commands. -/
structure SameInputs (i : Instr) (s s' : State) : Prop where
  bigIn : s.bigIn = s'.bigIn
  u64In : s.u64In = s'.u64In
  txtIn : s.txtIn = s'.txtIn
  source : ∀ r ∈ sources i, s.w[r.val] = s'.w[r.val]

/-- What two runs of a command have in common (R45): the error, and on success all that the command writes. -/
def SameResults (i : Instr) (t t' : State) : Prop :=
  t.err = t'.err ∧ (t.err = 0 → ∀ x ∈ writes i, x.Same t t')

section
variable {i : Instr} {s s' t t' : State}

theorem StateItem.same_cmp : StateItem.Same .cmp s t ↔ t.cmp = s.cmp := Iff.rfl

theorem StateItem.same_rng : StateItem.Same .rng s t ↔ t.rng = s.rng := Iff.rfl

theorem StateItem.same_rsv : StateItem.Same .rsv s t ↔ t.rsv = s.rsv := Iff.rfl

/-- Ending two commands alike makes ERR the same and keeps every item the same that was. -/
theorem StateItem.Same.raise {x : StateItem} (h : x ≠ .err → x.Same s s') (e : Err) :
    x.Same (s.raise e) (s'.raise e) := by
  cases x with
  | err => exact (State.raise_err s' e).trans (State.raise_err s e).symm
  | cmp | rng | rsv => simpa [same_cmp, same_rng, same_rsv] using h nofun
  | _ => exact h nofun

theorem SameResults.of_failure {e : Err} (he : e ≠ .none) : SameResults i (s.raise e) (s'.raise e) := by
  have hcode : (s.raise e).err ≠ Err.none.code := by simpa using he
  exact ⟨by simp, fun h => absurd h hcode⟩

theorem SameResults.of_success (h : ∀ x ∈ writes i, x ≠ .err → x.Same s s') :
    SameResults i (s.raise .none) (s'.raise .none) :=
  ⟨by simp, fun _ x hx => .raise (h x hx) .none⟩

/-- A command other than DEC ends the same way in every state with its inputs: the rule of the one state holds in the
other. -/
theorem CommandRule.sameResults (h : CommandRule s i t) (hdec : ∀ rd, i ≠ .dec rd) (hin : SameInputs i s s') :
    ∃ t', exec i s' = .next t' ∧ SameResults i t t' := by
  obtain ⟨hbig, hu64, htxt, hsource⟩ := hin
  have read : ∀ {r v}, r ∈ sources i → s.w[r.val] = v → s'.w[r.val] = v := fun hr hv => (hsource _ hr).symm.trans hv
  cases h with
  | uninit hr hw => exact ⟨_, exec_uninit hr (read hr hw), .of_failure nofun⟩
  | nop => exact ⟨_, rfl, .of_success (by simp [writes])⟩
  | range => exact ⟨_, rfl, .of_success (by simp [writes, StateItem.same_rng, hbig])⟩
  | decomp h => exact ⟨_, exec_decomp_inRange _ (hbig ▸ h), .of_success (by simp [writes, StateItem.Same, hbig])⟩
  | decompOutOfRange h => exact ⟨_, exec_decomp_outOfRange _ (hbig ▸ h), .of_failure nofun⟩
  | compose hx =>
    exact ⟨_, exec_compose_valid (read (by simp [sources]) hx), .of_success (by simp [writes, StateItem.Same])⟩
  | ldu64 => exact ⟨_, rfl, .of_success (by simp [writes, StateItem.Same, hu64])⟩
  | enc hx => exact ⟨_, exec_enc_valid (read (by simp [sources]) hx), .of_success (by simp [writes, StateItem.Same])⟩
  | dec | decShort => exact absurd rfl (hdec _)
  | cmp ha hb =>
    exact ⟨_, exec_cmp_valid (read (by simp [sources]) ha) (read (by simp [sources]) hb),
      .of_success (by simp [writes, StateItem.same_cmp])⟩
  | parse h hl =>
    exact ⟨_, exec_parse_value _ (htxt ▸ h) (htxt ▸ hl), .of_success (by simp [writes, StateItem.Same, htxt])⟩
  | parseInvalid h => exact ⟨_, exec_parse_invalid _ (htxt ▸ h), .of_failure nofun⟩
  | parseTooLarge h hl => exact ⟨_, exec_parse_tooLarge _ (htxt ▸ h) (htxt ▸ hl), .of_failure nofun⟩
  | fmt hx => exact ⟨_, exec_fmt_valid (read (by simp [sources]) hx), .of_success (by simp [writes, StateItem.Same])⟩

theorem sameResults_of_exec (hdec : ∀ rd, i ≠ .dec rd) (hin : SameInputs i s s') (h : exec i s = .next t)
    (h' : exec i s' = .next t') : SameResults i t t' := by
  obtain ⟨u, hu, hr⟩ := (commandRule_of_exec h).sameResults hdec hin
  rw [hu] at h'
  cases h'
  exact hr

/-- No command writes a register it reads (R56). -/
theorem source_notMem_writes {r : Reg} (h : r ∈ sources i) : .w r ∉ writes i := by
  cases i <;> simp_all [sources, writes]

/-- A command does not change its own inputs. -/
theorem CommandRule.sameInputs (h : CommandRule s i t) : SameInputs i s t where
  bigIn := (h.frame .bigIn (by cases i <;> simp [writes])).symm
  u64In := (h.frame .u64In (by cases i <;> simp [writes])).symm
  txtIn := (h.frame .txtIn (by cases i <;> simp [writes])).symm
  source r hr := (h.frame (.w r) (source_notMem_writes hr)).symm

/-- A command other than DEC that fails changes ERR alone (R94). -/
theorem CommandRule.failing_frame_err (h : CommandRule s i t) (hdec : ∀ rd, i ≠ .dec rd) (he : t.err ≠ 0) :
    UnchangedExcept [.err] s t := by
  intro x hx
  by_cases hw : x ∈ writes i
  · refine h.failing_frame he x fun hmem => ?_
    simp only [List.mem_cons, List.not_mem_nil, or_false] at hx hmem
    have decWrites : ∃ rd, i = .dec rd := by
      obtain rfl | rfl | rfl | rfl := hmem
      · exact absurd rfl hx
      · exact consumed_mem_writes.1 hw
      · exact binIn_mem_writes.1 hw
      · exact draws_mem_writes.1 hw
    exact decWrites.elim hdec
  · exact h.frame x hw

/-- A state a command leaves is one it leaves as it is: the inputs are those of the first run, so what the second run
writes is there already. -/
theorem exec_repeated (hdec : ∀ rd, i ≠ .dec rd) (h : exec i s = .next t) : exec i t = .next t := by
  have first := commandRule_of_exec h
  obtain ⟨u, hu, herr, hsame⟩ := first.sameResults hdec first.sameInputs
  have again := commandRule_of_exec hu
  have same : UnchangedExcept [] t u := by
    intro x _
    by_cases he : t.err = 0
    · by_cases hw : x ∈ writes i
      · exact hsame he x hw
      · exact again.frame x hw
    · by_cases hx : x = .err
      · subst hx
        exact herr.symm
      · exact again.failing_frame_err hdec (herr ▸ he) x (by simpa using hx)
  rw [hu, State.eq_of_unchanged same]

end

/-- Settles O50: the rule of the one run holds in the other state; a command keeps its own inputs, so a second run
repeats the first; and DEC's rule counts the bytes. -/
theorem commandsAreFunctionsOfTheirInputs : Obligations.CommandsAreFunctionsOfTheirInputs := by
  refine ⟨fun i s s' t t' hdec hbig hu64 htxt hsource h h' => ?_, fun i s t => exec_repeated, fun rd s t h he => ?_⟩
  · exact sameResults_of_exec hdec ⟨hbig, hu64, htxt, hsource⟩ h h'
  · obtain ⟨-, hlen, hdrop⟩ | ⟨he', -⟩ := (commandRule_of_exec h).dec_stream
    · rw [hdrop, List.length_drop]
      omega
    · rw [he] at he'
      exact absurd he' (by decide)

end Sys2Proof.Machine
end

section
/-! The command word (30_encoding.md R54 to R59): its fields as numbers, the masks of R57 said of the fields, the
decoder and the encoder as inverses, and which words are illegal. -/

namespace Sys2Proof.Machine

/-! ### The fields of a word (R54) -/

section
variable (c : CmdWord)

theorem opOf_toNat : (opOf c).toNat = opNum c := by simp [opOf, opNum]

theorem rdOf_toNat : (rdOf c).toNat = rdNum c := by simp [rdOf, rdNum, Nat.shiftRight_eq_div_pow]

theorem rs1Of_toNat : (rs1Of c).toNat = rs1Num c := by simp [rs1Of, rs1Num, Nat.shiftRight_eq_div_pow]

theorem rs2Of_toNat : (rs2Of c).toNat = rs2Num c := by simp [rs2Of, rs2Num, Nat.shiftRight_eq_div_pow]

theorem rsvOf_toNat : (rsvOf c).toNat = c.toNat / 1024 := by
  have := c.isLt
  simp only [rsvOf, BitVec.extractLsb'_toNat, Nat.shiftRight_eq_div_pow]
  omega

end

theorem regBits_toNat (r : Reg) : (regBits r).toNat = r.val := Nat.mod_eq_of_lt r.isLt

theorem Fields.word_toNat (f : Fields) : f.word.toNat =
    f.rsv.toNat * 2 ^ 10 + f.rs2.toNat * 2 ^ 8 + f.rs1.toNat * 2 ^ 6 + f.rd.toNat * 2 ^ 4 + f.op.toNat := by
  simp only [Fields.word, toNat_append_eq]
  omega

/-- A word holds given fields exactly when each has its number. -/
theorem ofWord_eq_iff {c : CmdWord} {f : Fields} : Fields.ofWord c = f ↔
    c.toNat / 1024 = f.rsv.toNat ∧ opNum c = f.op.toNat ∧ rdNum c = f.rd.toNat ∧ rs1Num c = f.rs1.toNat ∧
      rs2Num c = f.rs2.toNat := by
  obtain ⟨op, rd, rs1, rs2, rsv⟩ := f
  simp only [Fields.ofWord, Fields.mk.injEq, ← BitVec.toNat_inj, opOf_toNat, rdOf_toNat, rs1Of_toNat, rs2Of_toNat,
    rsvOf_toNat]
  tauto

/-- The fields are the digits of the word's number, so they can be read off the word put together from them. -/
theorem ofWord_word (f : Fields) : Fields.ofWord f.word = f := by
  have hop := f.op.isLt; have hrd := f.rd.isLt; have hrs1 := f.rs1.isLt; have hrs2 := f.rs2.isLt
  rw [ofWord_eq_iff]
  simp only [opNum, rdNum, rs1Num, rs2Num, Fields.word_toNat]
  omega

theorem word_ofWord (c : CmdWord) : (Fields.ofWord c).word = c := by
  apply BitVec.eq_of_toNat_eq
  rw [Fields.word_toNat]
  simp only [Fields.ofWord, opOf_toNat, rdOf_toNat, rs1Of_toNat, rs2Of_toNat, rsvOf_toNat, opNum, rdNum, rs1Num, rs2Num]
  omega

theorem ofWord_injective : Function.Injective Fields.ofWord :=
  Function.LeftInverse.injective word_ofWord

/-- A word is a command's encoding exactly when it holds the command's fields. -/
theorem eq_encode_iff {c : CmdWord} {i : Instr} : c = encode i ↔ Fields.ofWord c = i.fields := by
  rw [encode, ← ofWord_injective.eq_iff, ofWord_word]

/-- Settles O2: the sum the concatenation stands for, and its digits. -/
theorem wordFieldLayout : Obligations.WordFieldLayout := ⟨Fields.word_toNat, word_ofWord, ofWord_word⟩

/-! ### The masks of R57 -/

/-- The word with only an opcode in it: the match column of R57. -/
def opcodeWord (op : BitVec 4) : CmdWord := Fields.word ⟨op, 0, 0, 0, 0⟩

/-- An operand field of a mask: both bits are tested, or none is. -/
def maskField (tested : Bool) : BitVec 2 := if tested then 3 else 0

theorem and_maskField_eq_zero_iff {b : BitVec 2} {tested : Bool} :
    b &&& maskField tested = 0 ↔ (tested = true → b.toNat = 0) := by
  cases tested with
  | false => simp [maskField]
  | true =>
    have hb : b &&& maskField true = b := BitVec.and_allOnes
    simp [hb, ← BitVec.toNat_inj]

/-- A mask of R57: OP and RSV are tested, and of the operand fields those given. -/
def maskWord (rd rs1 rs2 : Bool) : CmdWord :=
  Fields.word ⟨0xF, maskField rd, maskField rs1, maskField rs2, 0x3F⟩

theorem ofWord_and (c m : CmdWord) : Fields.ofWord (c &&& m) =
    ⟨opOf c &&& opOf m, rdOf c &&& rdOf m, rs1Of c &&& rs1Of m, rs2Of c &&& rs2Of m, rsvOf c &&& rsvOf m⟩ := by
  simp only [Fields.ofWord, opOf, rdOf, rs1Of, rs2Of, rsvOf, BitVec.extractLsb'_and]

/-- A word matches an opcode under a mask when the opcode is its own and the tested fields are 0. -/
theorem and_maskWord_iff {c : CmdWord} {op : BitVec 4} (rd rs1 rs2 : Bool) :
    c &&& maskWord rd rs1 rs2 = opcodeWord op ↔ c.toNat / 1024 = 0 ∧ opNum c = op.toNat ∧
      (rd = true → rdNum c = 0) ∧ (rs1 = true → rs1Num c = 0) ∧ (rs2 = true → rs2Num c = 0) := by
  obtain ⟨hop, hrd, hrs1, hrs2, hrsv⟩ :=
    Fields.mk.inj (ofWord_word ⟨0xF, maskField rd, maskField rs1, maskField rs2, 0x3F⟩)
  have hop' : opOf c &&& 0xF = opOf c := BitVec.and_allOnes
  have hrsv' : rsvOf c &&& 0x3F = rsvOf c := BitVec.and_allOnes
  rw [← ofWord_injective.eq_iff, ofWord_and, opcodeWord, ofWord_word, maskWord, hop, hrd, hrs1, hrs2, hrsv, hop', hrsv',
    Fields.mk.injEq, and_maskField_eq_zero_iff, and_maskField_eq_zero_iff, and_maskField_eq_zero_iff, rdOf_toNat,
    rs1Of_toNat, rs2Of_toNat, ← BitVec.toNat_inj, ← BitVec.toNat_inj (x := rsvOf c), opOf_toNat, rsvOf_toNat]
  simp only [BitVec.toNat_zero, BitVec.ofNat_eq_ofNat]
  tauto

section
variable {c : CmdWord} {op : BitVec 4}

theorem and_FFFF_iff : c &&& 0xFFFF = opcodeWord op ↔
    c.toNat / 1024 = 0 ∧ opNum c = op.toNat ∧ rdNum c = 0 ∧ rs1Num c = 0 ∧ rs2Num c = 0 :=
  (and_maskWord_iff true true true).trans (by simp)

theorem and_FFCF_iff : c &&& 0xFFCF = opcodeWord op ↔
    c.toNat / 1024 = 0 ∧ opNum c = op.toNat ∧ rs1Num c = 0 ∧ rs2Num c = 0 :=
  (and_maskWord_iff false true true).trans (by simp)

theorem and_FF3F_iff : c &&& 0xFF3F = opcodeWord op ↔
    c.toNat / 1024 = 0 ∧ opNum c = op.toNat ∧ rdNum c = 0 ∧ rs2Num c = 0 :=
  (and_maskWord_iff true false true).trans (by simp)

theorem and_FC3F_iff : c &&& 0xFC3F = opcodeWord op ↔ c.toNat / 1024 = 0 ∧ opNum c = op.toNat ∧ rdNum c = 0 :=
  (and_maskWord_iff true false false).trans (by simp)

/-- NOP and RANGE: every bit is fixed. -/
theorem ofWord_eq_opcode_iff : Fields.ofWord c = ⟨op, 0, 0, 0, 0⟩ ↔ c &&& 0xFFFF = opcodeWord op := by
  rw [ofWord_eq_iff, and_FFFF_iff]
  rfl

/-- DECOMP, LDU64, DEC and PARSE: RD is open. -/
theorem ofWord_eq_rd_iff {r : Reg} :
    Fields.ofWord c = ⟨op, regBits r, 0, 0, 0⟩ ↔ c &&& 0xFFCF = opcodeWord op ∧ rdNum c = r.val := by
  rw [ofWord_eq_iff, and_FFCF_iff, regBits_toNat]
  tauto

/-- COMPOSE, ENC and FMT: RS1 is open. -/
theorem ofWord_eq_rs1_iff {r : Reg} :
    Fields.ofWord c = ⟨op, 0, regBits r, 0, 0⟩ ↔ c &&& 0xFF3F = opcodeWord op ∧ rs1Num c = r.val := by
  rw [ofWord_eq_iff, and_FF3F_iff, regBits_toNat]
  tauto

/-- CMP: RS1 and RS2 are open. -/
theorem ofWord_eq_rs1_rs2_iff {r q : Reg} : Fields.ofWord c = ⟨op, 0, regBits r, regBits q, 0⟩ ↔
    c &&& 0xFC3F = opcodeWord op ∧ rs1Num c = r.val ∧ rs2Num c = q.val := by
  rw [ofWord_eq_iff, and_FC3F_iff, regBits_toNat, regBits_toNat]
  tauto

end

/-! ### The decoder and the encoder (R57, R59) -/

theorem decode_encode (i : Instr) : decode (encode i) = .ok i := by
  cases i with
  | nop | range => decide
  | decomp r | compose r | ldu64 r | enc r | dec r | parse r | fmt r => revert r; decide
  | cmp r q => revert r q; decide

/-- A word that a row admits holds the fields of the command the row builds from it. -/
theorem fields_build_of_hits {c : CmdWord} {r : OpcodeRow} (hr : r ∈ opcodeRows) (h : r.hits c = true) :
    Fields.ofWord c = (r.build (regOf (rdOf c)) (regOf (rs1Of c)) (regOf (rs2Of c))).fields := by
  have hm : c &&& r.mask = r.bits := eq_of_beq h
  have hrd : rdNum c = (regOf (rdOf c)).val := (rdOf_toNat c).symm
  have hrs1 : rs1Num c = (regOf (rs1Of c)).val := (rs1Of_toNat c).symm
  have hrs2 : rs2Num c = (regOf (rs2Of c)).val := (rs2Of_toNat c).symm
  simp only [opcodeRows, List.mem_cons, List.not_mem_nil, or_false] at hr
  obtain rfl | rfl | rfl | rfl | rfl | rfl | rfl | rfl | rfl | rfl := hr
  · exact ofWord_eq_opcode_iff.2 hm
  · exact ofWord_eq_opcode_iff.2 hm
  · exact ofWord_eq_rd_iff.2 ⟨hm, hrd⟩
  · exact ofWord_eq_rs1_iff.2 ⟨hm, hrs1⟩
  · exact ofWord_eq_rd_iff.2 ⟨hm, hrd⟩
  · exact ofWord_eq_rs1_iff.2 ⟨hm, hrs1⟩
  · exact ofWord_eq_rd_iff.2 ⟨hm, hrd⟩
  · exact ofWord_eq_rs1_rs2_iff.2 ⟨hm, hrs1, hrs2⟩
  · exact ofWord_eq_rd_iff.2 ⟨hm, hrd⟩
  · exact ofWord_eq_rs1_iff.2 ⟨hm, hrs1⟩

theorem fields_of_decode {c : CmdWord} {i : Instr} (h : decode c = .ok i) : Fields.ofWord c = i.fields := by
  cases hf : opcodeRows.find? (·.hits c) with
  | none => simp [decode, hf] at h
  | some r =>
    simp only [decode, hf, Except.ok.injEq] at h
    rw [← h, fields_build_of_hits (List.mem_of_find?_eq_some hf) (List.find?_some (p := fun r => OpcodeRow.hits r c) hf)]

theorem decode_eq_ok_iff {c : CmdWord} {i : Instr} : decode c = .ok i ↔ Fields.ofWord c = i.fields :=
  ⟨fields_of_decode, fun h => eq_encode_iff.2 h ▸ decode_encode i⟩

/-- Settles O1: both sides say that the word holds the command's fields. -/
theorem decodeExactlyInvertsEncode : Obligations.DecodeExactlyInvertsEncode := fun _ _ =>
  decode_eq_ok_iff.trans eq_encode_iff.symm

/-- Settles O3: the word holds the command's fields, said by the mask of its row. -/
theorem decoderFollowsMaskAndMatch : Obligations.DecoderFollowsMaskAndMatch := fun _ =>
  ⟨decode_eq_ok_iff.trans ofWord_eq_opcode_iff, decode_eq_ok_iff.trans ofWord_eq_opcode_iff,
    fun _ => decode_eq_ok_iff.trans ofWord_eq_rd_iff, fun _ => decode_eq_ok_iff.trans ofWord_eq_rs1_iff,
    fun _ => decode_eq_ok_iff.trans ofWord_eq_rd_iff, fun _ => decode_eq_ok_iff.trans ofWord_eq_rs1_iff,
    fun _ => decode_eq_ok_iff.trans ofWord_eq_rd_iff, fun _ _ => decode_eq_ok_iff.trans ofWord_eq_rs1_rs2_iff,
    fun _ => decode_eq_ok_iff.trans ofWord_eq_rd_iff, fun _ => decode_eq_ok_iff.trans ofWord_eq_rs1_iff⟩

/-- Settles O7, by running the decoder on the ten words. -/
theorem sampleWordsDecode : Obligations.SampleWordsDecode := by
  unfold Obligations.SampleWordsDecode
  decide

/-! ### Legal and illegal words (R58, R59) -/

/-- The decoder refuses a word exactly when no row of R57 admits it. -/
theorem decode_error_iff {c : CmdWord} : (∃ why, decode c = .error why) ↔ ¬ ∃ p ∈ r57Rows, c &&& p.1 = p.2 := by
  have hrows : r57Rows = opcodeRows.map fun r => (r.mask, r.bits) := rfl
  have hnone : (∃ why, decode c = .error why) ↔ opcodeRows.find? (·.hits c) = none := by
    cases hf : opcodeRows.find? (·.hits c) <;> simp [decode, hf]
  simp [hnone, hrows, OpcodeRow.hits]

/-- R58: within each opcode the conditions (a) and (c) are the negation of its row, and a reserved opcode has none. -/
theorem not_wordIllegal_iff (c : CmdWord) : ¬ WordIllegal c ↔ ∃ p ∈ r57Rows, c &&& p.1 = p.2 := by
  have hrows : r57Rows = [(0xFFFF, opcodeWord 0), (0xFFFF, opcodeWord 1), (0xFFCF, opcodeWord 2),
    (0xFF3F, opcodeWord 3), (0xFFCF, opcodeWord 4), (0xFF3F, opcodeWord 5), (0xFFCF, opcodeWord 6),
    (0xFC3F, opcodeWord 7), (0xFFCF, opcodeWord 8), (0xFF3F, opcodeWord 9)] := by decide
  simp only [hrows, List.exists_mem_cons_iff, List.not_mem_nil, false_and, exists_false, or_false,
    and_FFFF_iff, and_FFCF_iff, and_FF3F_iff, and_FC3F_iff, WordIllegal, BitVec.reduceToNat]
  obtain h | h := Nat.lt_or_ge (opNum c) 10
  · interval_cases opNum c <;> simp
  · simp only [h, true_or, or_true, not_true, false_iff]
    omega

theorem decode_error_iff_wordIllegal {c : CmdWord} : (∃ why, decode c = .error why) ↔ WordIllegal c := by
  rw [decode_error_iff, ← not_wordIllegal_iff, not_not]

/-- R58: the step of an illegal word takes it off the host's actions and ends with ILLEGAL. -/
theorem step_wordIllegal {s : State} {c : CmdWord} {rest : List HostAction} (hp : s.pending = .issue c :: rest)
    (hc : WordIllegal c) :
    ∃ t, step s = .next t ∧ t.err = 4 ∧ t.pending = rest ∧ UnchangedExcept [.err, .pending] s t := by
  obtain ⟨why, hd⟩ := decode_error_iff_wordIllegal.2 hc
  exact ⟨_, step_illegal hp hd, State.raise_err _ _, rfl,
    (UnchangedExcept.setPending s rest (by simp)).trans (.raise _ _ (by simp))⟩

/-- Settles O4: the rows of R57 are what the decoder tries, and the conditions of R58 say when they all fail. -/
theorem illegalWordRaisesIllegal : Obligations.IllegalWordRaisesIllegal :=
  ⟨fun _ => decode_error_iff_wordIllegal, not_wordIllegal_iff, fun _ _ _ => step_wordIllegal⟩

/-- Settles O6: the encoding is the one word, and a reserved opcode is condition (b) of R58. -/
theorem reservedOpcodesAreIllegal : Obligations.ReservedOpcodesAreIllegal := by
  refine ⟨fun i => ⟨encode i, decode_encode i, fun c => (decodeExactlyInvertsEncode c i).1⟩, fun s c rest hp hop => ?_⟩
  obtain ⟨t, hs, herr, -, hframe⟩ := step_wordIllegal hp (.inr (.inl hop))
  exact ⟨t, hs, herr, hframe⟩

/-- The commands, with every register in every operand. -/
def commands : List Instr :=
  let regs : List Reg := List.finRange 4
  [[.nop, .range], regs.map .decomp, regs.map .compose, regs.map .ldu64, regs.map .enc, regs.map .dec,
    regs.flatMap fun rs1 => regs.map (.cmp rs1), regs.map .parse, regs.map .fmt].flatten

theorem mem_commands (i : Instr) : i ∈ commands := by
  cases i <;> simp [commands]

theorem encode_injective : Function.Injective encode := fun i j h =>
  Except.ok.inj ((decode_encode i).symm.trans (h ▸ decode_encode j))

/-- Settles O5: the words are the encodings of the 46 commands, which differ as the commands do. -/
theorem fortySixWordsAreLegal : Obligations.FortySixWordsAreLegal := by
  refine ⟨commands.map encode, List.Nodup.map encode_injective (by decide), rfl, fun c => ?_⟩
  simp [mem_commands, decodeExactlyInvertsEncode c, eq_comm]

/-! ### The step (R26, R56, R61) -/

theorem withFetchWord_encode (s : State) (i : Instr) :
    s.withFetchWord 16 (encode i).toNat = s.setPending (.issue (encode i) :: s.pending) := by
  simp [State.withFetchWord, tableWord, Nat.mod_eq_of_lt (encode i).isLt]

/-- Settles O9: the placed word decodes to its command, and taking it off leaves the state it was placed in. -/
theorem placedWordRunsNext : Obligations.PlacedWordRunsNext := fun s i => by
  rw [withFetchWord_encode, step_command rfl (decode_encode i)]
  rfl

/-- Settles O10: each command and each step ends by one of its rules. -/
theorem everyStepAnswersANextState : Obligations.EveryStepAnswersANextState :=
  ⟨fun i s => (exec_answers i s).imp fun _ => And.left, fun s => (step_answers s).imp fun _ => And.left⟩

/-- Settles O41: the frame of the rule the command ended by. -/
theorem commandsWriteOnlyTheirItems : Obligations.CommandsWriteOnlyTheirItems := fun _ _ _ h =>
  (commandRule_of_exec h).frame

end Sys2Proof.Machine
end

section
/-! The decomposer (40_interop.md R64 to R70): the words DECOMP cuts out of the big-endian image are the limbs of the
number, COMPOSE puts them together again, and each command ends by its rule. -/

namespace Sys2Proof.Machine

/-! ### The words of the big-endian image (R38, R65, R66) -/

theorem byteAt_slice (b : List Byte) {i j k : Nat} (h : k < j - i) : byteAt (slice b i j) k = byteAt b (i + k) := by
  simp [byteAt, slice, h]

/-- A window of eight bytes, read big-endian, is the sum R9 gives for it. -/
theorem be64_slice_toNat {b : List Byte} {i : Nat} (h : i + 8 ≤ b.length) :
    (be64 (slice b i (i + 8))).toNat = be64Sum b i := by
  have hlen : (slice b i (i + 8)).length = 8 := by simp only [slice, List.length_take, List.length_drop]; omega
  rw [be64_eq_be64Sum hlen]
  refine Finset.sum_congr rfl fun j hj => ?_
  have hj := Finset.mem_range.1 hj
  rw [byteAt_slice b (by omega), Nat.zero_add]

/-- Eight bytes of the image are 64 bits of the number: its digits in base 256, the last byte the lowest. -/
theorem be64Sum_be32B (n : Nat) {i : Nat} (h : i ≤ 24) : be64Sum (be32B n) i = n / 2 ^ (8 * (24 - i)) % 2 ^ 64 := by
  have hdigit : ∀ j < 8, byteAt (be32B n) (i + (7 - j)) * 2 ^ (8 * (7 - (7 - j))) =
      n / 2 ^ (8 * (24 - i)) / 256 ^ j % 256 * 256 ^ j := fun j hj => by
    have hplace : 8 * (31 - (i + (7 - j))) = 8 * (24 - i) + 8 * j := by omega
    rw [byteAt_be32B n (by omega), hplace, Nat.sub_sub_self (by omega), pow_add, ← Nat.div_div_eq_div_mul,
      pow_mul 2 8 j]
    rfl
  calc be64Sum (be32B n) i
      = ∑ j ∈ Finset.range 8, byteAt (be32B n) (i + (7 - j)) * 2 ^ (8 * (7 - (7 - j))) :=
        (Finset.sum_range_reflect (fun j => byteAt (be32B n) (i + j) * 2 ^ (8 * (7 - j))) 8).symm
    _ = ∑ j ∈ Finset.range 8, n / 2 ^ (8 * (24 - i)) / 256 ^ j % 256 * 256 ^ j :=
        Finset.sum_congr rfl fun j hj => hdigit j (Finset.mem_range.1 hj)
    _ = n / 2 ^ (8 * (24 - i)) % 2 ^ 64 := sum_digits _ 256 8

/-- DECOMP's words are the readings of the four windows of the image. -/
theorem decompose_toNat (n : Nat) :
    (decompose n).l3.toNat = be64Sum (be32B n) 0 ∧ (decompose n).l2.toNat = be64Sum (be32B n) 8 ∧
      (decompose n).l1.toNat = be64Sum (be32B n) 16 ∧ (decompose n).l0.toNat = be64Sum (be32B n) 24 := by
  have word : ∀ i ≤ 24, (be64 (slice (be32B n) i (i + 8))).toNat = be64Sum (be32B n) i := fun i hi =>
    be64_slice_toNat (by rw [be32B_length]; omega)
  exact ⟨word 0 (by decide), word 8 (by decide), word 16 (by decide), word 24 (by decide)⟩

/-- R65: the words equal the limbs of the number. -/
theorem decompose_eq_limbsOf (n : Nat) : decompose n = limbsOf n := by
  obtain ⟨h3, h2, h1, h0⟩ := decompose_toNat n
  rw [be64Sum_be32B n (by decide)] at h3 h2 h1 h0
  have hn : n / 2 ^ (8 * (24 - 24)) = n := Nat.div_one n
  rw [hn] at h0
  exact (WideInt.mk.injEq ..).mpr ⟨BitVec.eq_of_toNat_eq h3, BitVec.eq_of_toNat_eq h2, BitVec.eq_of_toNat_eq h1,
    BitVec.eq_of_toNat_eq h0⟩

theorem val_decompose {n : Nat} (h : n < 2 ^ 256) : val (decompose n) = n := by
  rw [decompose_eq_limbsOf, val_limbsOf h]

/-! ### The commands (R64, R66, R68, R70) -/

/-- A register a command has written holds the value once the command has ended. -/
theorem State.writeW_raise_get (s : State) (r : Reg) (v : WideInt) (e : Err) :
    ((s.writeW r v).raise e).w[r.val] = some v := by simp

/-- Settles O18: the equation of RANGE, which has no other way to end. -/
theorem rangeReportsThePredicate : Obligations.RangeReportsThePredicate := fun s =>
  ⟨_, rfl, by simp [State.rng, ofBool_inRange], State.raise_err _ _, CommandRule.range.frame⟩

/-- Settles O19: the image is the buffer, and the two equations of DECOMP are the two cases. -/
theorem decompWritesTheBigEndianWords : Obligations.DecompWritesTheBigEndianWords := fun s rd =>
  ⟨fun h => ⟨_, _, exec_decomp_inRange rd h, s.writeW_raise_get rd _ .none,
      ⟨be32B s.bigIn.toNat, be32B_length _, fun _ => byteAt_be32B _, decompose_toNat _⟩,
      State.raise_err _ _, (CommandRule.decomp h).frame⟩,
    fun h => ⟨_, exec_decomp_outOfRange rd (by omega), State.raise_err _ _, .raise s _ (by simp)⟩⟩

/-- Settles O20: the words are the limbs, whose value is the number. -/
theorem decompValueIsBigIn : Obligations.DecompValueIsBigIn := fun s rd h0 h1 => by
  have hn : s.bigIn.toNat < 2 ^ 256 := by omega
  refine ⟨_, _, exec_decomp_inRange rd ⟨h0, h1⟩, s.writeW_raise_get rd _ .none, ?_, ?_⟩
  · rw [← val_eq_valueOf, val_decompose hn, Int.toNat_of_nonneg h0]
  · simp only [decompose_eq_limbsOf, limbsOf, BitVec.toNat_ofNat, and_true]
    exact Nat.mod_eq_of_lt (by omega)

/-- Settles O21: COMPOSE of a valid register joins its halves, and an unwritten source raises UNINIT. -/
theorem composeJoinsTheHalves : Obligations.ComposeJoinsTheHalves := fun s rs1 =>
  ⟨fun x hx => ⟨_, compose x, exec_compose_valid hx, rfl, rfl, Nat.le_pred_of_lt (val_lt x), State.raise_err _ _,
      (CommandRule.compose hx).frame⟩,
    fun hw => ⟨_, exec_uninit (by simp [sources]) hw, State.raise_err _ _, .raise s _ (by simp)⟩⟩

/-- Settles O22: COMPOSE finds the words DECOMP has written, and their value is BIG_IN. -/
theorem decompThenComposeGivesBigIn : Obligations.DecompThenComposeGivesBigIn := fun s rd h0 h1 => by
  refine ⟨_, _, _, exec_decomp_inRange rd ⟨h0, h1⟩, exec_compose_valid (s.writeW_raise_get rd _ .none),
    State.raise_err _ _, rfl, ?_⟩
  rw [compose_eq_val, val_decompose (by omega), Int.toNat_of_nonneg h0]

theorem valueOf_zeroExtend64 (u : BitVec 64) : valueOf (zeroExtend64 u) = u.toNat := by
  simp [valueOf, zeroExtend64]

/-- Settles O23: the equation of LDU64, which has no other way to end. -/
theorem ldu64ZeroExtends : Obligations.Ldu64ZeroExtends := fun s rd =>
  ⟨_, zeroExtend64 s.u64In, rfl, s.writeW_raise_get rd _ .none, rfl, rfl, rfl, rfl, valueOf_zeroExtend64 _,
    State.raise_err _ _, CommandRule.ldu64.frame⟩

end Sys2Proof.Machine
end

section
/-! The binary codec (41_binary_codec.md R71 to R78): the bytes of the limbs, the 32 bytes as one little-endian number
whose words are the limbs, and the two commands as inverses. -/

namespace Sys2Proof.Machine

/-! ### The bytes of the limbs (R39, R76) -/

theorem encBytes_length (x : WideInt) : (encBytes x).toList.length = 32 := Vector.length_toList

/-- Eight bytes of the encoding belong to each limb, the lowest bits first. -/
theorem byteAt_encBytes_limb (x : WideInt) {k j : Nat} (hk : k < 4) (hj : j < 8) :
    byteAt (encBytes x).toList (8 * k + j) = (limb x k).toNat / 2 ^ (8 * j) % 256 := by
  have hi : 8 * k + j < 32 := by omega
  have hlimb : (8 * k + j) / 8 = k := by omega
  have hplace : (8 * k + j) % 8 = j := by omega
  simp [byteAt, encBytes, hi, hlimb, hplace, Nat.shiftRight_eq_div_pow]

/-- Settles O24: ENC of a valid register writes the bytes of its limbs, and an unwritten source raises UNINIT. -/
theorem encWritesTheLimbsLittleEndian : Obligations.EncWritesTheLimbsLittleEndian := fun s rs1 =>
  ⟨fun x hx => ⟨_, encBytes x, exec_enc_valid hx, rfl, encBytes_length x,
      fun j hj =>
        have byte {k : Nat} (hk : k < 4) := byteAt_encBytes_limb x hk hj
        ⟨by simpa [limb] using byte (k := 0) (by decide), byte (k := 1) (by decide), byte (k := 2) (by decide),
          byte (k := 3) (by decide)⟩,
      State.raise_err _ _, (CommandRule.enc hx).frame⟩,
    fun hw => ⟨_, exec_uninit (by simp [sources]) hw, State.raise_err _ _, .raise s _ (by simp)⟩⟩

/-! ### The bytes as one little-endian number (R9, R73) -/

theorem byteAt_take {b : List Byte} {n i : Nat} (h : i < n) : byteAt (b.take n) i = byteAt b i := by
  simp [byteAt, h]

theorem byteAt_drop (b : List Byte) (n i : Nat) : byteAt (b.drop n) i = byteAt b (n + i) := by simp [byteAt]

theorem leNat_take_eq_sum {b : List Byte} {n : Nat} (h : n ≤ b.length) :
    leNat (b.take n) = ∑ i ∈ Finset.range n, byteAt b i * 2 ^ (8 * i) := by
  rw [leNat_eq_sum, List.length_take_of_le h]
  refine Finset.sum_congr rfl fun i hi => ?_
  rw [byteAt_take (Finset.mem_range.1 hi), pow_mul]
  rfl

/-- Sequences of one length are the digits of one number in one way only. -/
theorem eq_of_leNat_eq {a b : List Byte} (hl : a.length = b.length) (h : leNat a = leNat b) : a = b := by
  induction a generalizing b with
  | nil => exact (List.length_eq_zero_iff.1 hl.symm).symm
  | cons x a ih =>
    cases b with
    | nil => cases hl
    | cons y b =>
      have hx := x.isLt; have hy := y.isLt
      simp only [leNat] at h
      rw [BitVec.eq_of_toNat_eq (by omega : x.toNat = y.toNat), ih (Nat.succ.inj hl) (by omega)]

theorem slice_word (b : List Byte) (i : Nat) : slice b i (i + 8) = (b.drop i).take 8 := by
  rw [slice, Nat.add_sub_cancel_left]

/-- Eight bytes of a sequence are a word and the rest is what stands above it. -/
theorem leNat_drop_eq_word_add {b : List Byte} {i : Nat} (h : i + 8 ≤ b.length) :
    leNat (b.drop i) = (le64 (slice b i (i + 8))).toNat + 2 ^ 64 * leNat (b.drop (i + 8)) := by
  have hdrop : 8 ≤ (b.drop i).length := by rw [List.length_drop]; omega
  have hlen := List.length_take_of_le hdrop
  rw [slice_word, le64_toNat hlen, ← List.drop_drop]
  conv_lhs => rw [← List.take_append_drop 8 (b.drop i), leNat_append, hlen]
  rfl

theorem le64_slice_toNat {b : List Byte} {i : Nat} (h : i + 8 ≤ b.length) :
    (le64 (slice b i (i + 8))).toNat = le64Sum b i := by
  have hdrop : 8 ≤ (b.drop i).length := by rw [List.length_drop]; omega
  rw [slice_word, le64_toNat (List.length_take_of_le hdrop), leNat_take_eq_sum hdrop]
  simp only [byteAt_drop]
  rfl

/-! ### The limbs of the bytes (R73, R78) -/

theorem slice_take (b : List Byte) {i j n : Nat} (h : j ≤ n) : slice (b.take n) i j = slice b i j := by
  simp only [slice, List.drop_take, List.take_take, Nat.min_eq_left (Nat.sub_le_sub_right h i)]

/-- The decoder reads the first 32 bytes alone. -/
theorem decBytes_take (b : List Byte) : decBytes (b.take 32) = decBytes b := by
  simp only [decBytes, slice_take b (by decide : 8 ≤ 32), slice_take b (by decide : 16 ≤ 32),
    slice_take b (by decide : 24 ≤ 32), slice_take b (Nat.le_refl 32)]

theorem decBytes_toNat {b : List Byte} (h : 32 ≤ b.length) :
    (decBytes b).l0.toNat = le64Sum b 0 ∧ (decBytes b).l1.toNat = le64Sum b 8 ∧
      (decBytes b).l2.toNat = le64Sum b 16 ∧ (decBytes b).l3.toNat = le64Sum b 24 :=
  ⟨le64_slice_toNat (by omega), le64_slice_toNat (by omega), le64_slice_toNat (by omega), le64_slice_toNat (by omega)⟩

/-- The value of the limbs is the number the 32 bytes spell, cut off four times at its lowest word. -/
theorem valueOf_decBytes {b : List Byte} (h : b.length = 32) : valueOf (decBytes b) = leNat b := by
  have h0 : leNat b = _ := leNat_drop_eq_word_add (b := b) (i := 0) (by omega)
  have h1 := leNat_drop_eq_word_add (b := b) (i := 8) (by omega)
  have h2 := leNat_drop_eq_word_add (b := b) (i := 16) (by omega)
  have h3 := leNat_drop_eq_word_add (b := b) (i := 24) (by omega)
  have hend : leNat (b.drop 32) = 0 := by rw [List.drop_of_length_le h.le]; rfl
  simp only [Nat.zero_add, Nat.reduceAdd] at h0 h1 h2 h3
  simp only [valueOf, decBytes]
  omega

theorem valueOf_decBytes_eq_sum {b : List Byte} (h : 32 ≤ b.length) :
    valueOf (decBytes b) = ∑ i ∈ Finset.range 32, byteAt b i * 2 ^ (8 * i) := by
  rw [← decBytes_take, valueOf_decBytes (List.length_take_of_le h), leNat_take_eq_sum h]

/-! ### Encoding and decoding are inverse (R74) -/

theorem leNat_encBytes (x : WideInt) : leNat (encBytes x).toList = valueOf x := by
  have hlen := encBytes_length x
  rw [valueOf_eq_sum_encBytes, ← leNat_take_eq_sum hlen.ge, List.take_of_length_le hlen.le]

theorem valueOf_injective : Function.Injective valueOf := by
  have : valueOf = val := funext fun x => (val_eq_valueOf x).symm
  exact this ▸ Function.LeftInverse.injective limbsOf_val

theorem decBytes_encBytes (x : WideInt) : decBytes (encBytes x).toList = x :=
  valueOf_injective ((valueOf_decBytes (encBytes_length x)).trans (leNat_encBytes x))

theorem encBytes_decBytes {b : List Byte} (h : b.length = 32) : (encBytes (decBytes b)).toList = b :=
  eq_of_leNat_eq ((encBytes_length _).trans h.symm) ((leNat_encBytes _).trans (valueOf_decBytes h))

/-! ### The commands (R74, R76, R78) -/

/-- All a DEC does that finds 32 bytes; it takes no free draw. -/
theorem exec_dec_reads {s : State} (rd : Reg) (h : 32 ≤ s.binIn.length) :
    ∃ t, exec (.dec rd) s = .next t ∧ t.w[rd.val] = some (decBytes s.binIn) ∧ t.consumed = 32 ∧
      t.binIn = s.binIn.drop 32 ∧ t.err = 0 ∧ UnchangedExcept [.w rd, .consumed, .binIn, .err] s t := by
  have hread : some (decBytes (s.streamPeek 32)) = some (decBytes s.binIn) := congrArg some (decBytes_take s.binIn)
  refine ⟨_, exec_dec_enough rd h, (State.writeW_raise_get (s.streamAdvance 32) rd _ .none).trans hread, rfl, rfl,
    State.raise_err _ _, fun x hx => ?_⟩
  by_cases hd : x = .draws
  · subst hd
    rfl
  · exact (CommandRule.dec h).frame x (by simp_all [writes])

/-- Settles O26: a DEC that finds 32 bytes reads their words, and one that does not ends by the rule of a short
read. -/
theorem decReadsThirtyTwoBytes : Obligations.DecReadsThirtyTwoBytes := by
  refine fun s rd => ⟨fun h => ?_, fun h => ?_⟩
  · obtain ⟨t, hexec, hw, hconsumed, hstream, herr, hframe⟩ := exec_dec_reads rd h
    obtain ⟨h0, h1, h2, h3⟩ := decBytes_toNat h
    exact ⟨t, _, hexec, hw, h0, h1, h2, h3, hconsumed, hstream, herr, hframe⟩
  · exact ⟨_, exec_dec_short rd h, ⟨_, s.drawAdvance_le, rfl⟩, State.raise_err _ _,
      (UnchangedExcept.shortRead s (by simp) (by simp) (by simp)).trans (.raise _ _ (by simp))⟩

/-- Settles O27: the words a DEC reads have the value of the bytes' sum, and its two endings leave other codes than
RANGE. -/
theorem decValueIsTheByteSum : Obligations.DecValueIsTheByteSum := by
  refine ⟨fun s rd h => ?_, fun s t rd hexec => ?_⟩
  · obtain ⟨t, hexec, hw, -⟩ := exec_dec_reads rd h
    obtain ⟨h0, h1, h2, h3⟩ := decBytes_toNat h
    exact ⟨t, _, hexec, hw, h0, h1, h2, h3, valueOf_decBytes_eq_sum h⟩
  · obtain ⟨herr, -⟩ | ⟨herr, -⟩ := (commandRule_of_exec hexec).dec_stream
    · simp [herr]
    · simp [herr]

/-- Settles O28: each command finds what the other has written, and the two codings are inverse. -/
theorem binaryCodecRoundTrips : Obligations.BinaryCodecRoundTrips := by
  refine ⟨fun s ws wd x more hx => ?_, fun s rd h => ?_⟩
  · have hlen := encBytes_length x
    have enough : 32 ≤ ((encBytes x).toList ++ more).length := by rw [List.length_append]; omega
    obtain ⟨u, hexec, hw, hconsumed, hstream, herr, -⟩ :=
      exec_dec_reads (s := ((s.setEncOut (encBytes x)).raise .none).setBinIn ((encBytes x).toList ++ more)) wd enough
    rw [State.setBinIn_binIn, ← decBytes_take, List.take_left' hlen, decBytes_encBytes] at hw
    rw [State.setBinIn_binIn, List.drop_left' hlen] at hstream
    exact ⟨_, _, u, exec_enc_valid hx, rfl, hexec, hw, hconsumed, hstream, herr⟩
  · obtain ⟨t, hexec, hw, -⟩ := exec_dec_reads rd h
    refine ⟨t, _, _, hexec, exec_enc_valid hw, rfl, ?_, State.raise_err _ _⟩
    rw [← decBytes_take, encBytes_decBytes (List.length_take_of_le h)]

end Sys2Proof.Machine
end

section
/-! The comparator (42_compare.md R79 to R83): the code the loop over the limbs leaves, the same code from the halves
and from the values, and the laws of an order, which are those of the numbers. -/

namespace Sys2Proof.Machine

/-! ### The code of the loop over the limbs (R82) -/

/-- The first pair decides unless its limbs are equal. -/
theorem cmpCode_cmpLimbs_cons (a b : Limb) (rest : List (Limb × Limb)) :
    cmpCode (cmpLimbs ((a, b) :: rest)) =
      if a = b then cmpCode (cmpLimbs rest) else if a.toNat < b.toNat then 0b11 else 0b01 := by
  rw [cmpLimbs_cons]
  by_cases h : a = b
  · subst h
    simp
  · have hne : a.toNat ≠ b.toNat := fun he => h (BitVec.eq_of_toNat_eq he)
    obtain hlt | hgt := Nat.lt_or_gt_of_ne hne
    · simp [h, hlt, cmpCode]
    · simp [h, hgt, hgt.not_gt, cmpCode]

theorem cmpCode_cmpWide (a b : WideInt) :
    cmpCode (cmpWide a b) =
      if a.l3 = b.l3 then
        if a.l2 = b.l2 then
          if a.l1 = b.l1 then
            if a.l0 = b.l0 then 0b00 else if a.l0.toNat < b.l0.toNat then 0b11 else 0b01
          else if a.l1.toNat < b.l1.toNat then 0b11 else 0b01
        else if a.l2.toNat < b.l2.toNat then 0b11 else 0b01
      else if a.l3.toNat < b.l3.toNat then 0b11 else 0b01 := by
  simp only [cmpWide, cmpCode_cmpLimbs_cons]
  rfl

/-- The code CMP writes stands in STATUS once the command has ended. -/
theorem State.setCmp_raise_cmp (s : State) (o : Ordering) (e : Err) : ((s.setCmp o).raise e).cmp = cmpCode o := by simp

/-- Settles O30: the code of the loop, with the frame of CMP's rule; an unwritten source is one of CMP's sources. -/
theorem cmpFirstUnequalLimbDecides : Obligations.CmpFirstUnequalLimbDecides := by
  refine fun s rs1 rs2 => ⟨fun a b ha hb => ?_, fun hw => ?_⟩
  · exact ⟨_, exec_cmp_valid ha hb, (s.setCmp_raise_cmp _ _).trans (cmpCode_cmpWide a b), State.raise_err _ _,
      (CommandRule.cmp ha hb).frame⟩
  · have hexec : exec (.cmp rs1 rs2) s = .next (s.raise .uninit) := by
      obtain hw | hw := hw <;> exact exec_uninit (by simp [sources]) hw
    exact ⟨_, hexec, State.raise_err _ _, .raise s _ (by simp)⟩

/-! ### The code of the values and of the halves (R79) -/

theorem cmpCode_cmpWide_valueOf (a b : WideInt) :
    cmpCode (cmpWide a b) =
      if valueOf a < valueOf b then 0b11 else if valueOf b < valueOf a then 0b01 else 0b00 := by
  rw [cmpWide_eq_compare, cmpCode_compare]
  obtain h | h | h := Nat.lt_trichotomy (valueOf a) (valueOf b)
  · simp [h, h.ne, h.not_gt]
  · simp [h]
  · simp [h, h.ne', h.not_gt]

theorem low_lt (x : WideInt) : low x < 2 ^ 128 := by
  have h1 := x.l1.isLt; have h0 := x.l0.isLt
  simp only [low]
  omega

/-- The low half is less than one unit of the high half, so the high halves decide first. -/
theorem valueOf_lt_iff (a b : WideInt) : valueOf a < valueOf b ↔ high a < high b ∨ high a = high b ∧ low a < low b := by
  have ha := low_lt a; have hb := low_lt b
  rw [← val_eq_valueOf, ← val_eq_valueOf, val, val]
  omega

theorem cmpCode_cmpWide_halves (a b : WideInt) :
    cmpCode (cmpWide a b) =
      if high a < high b then 0b11 else if high b < high a then 0b01
      else if low a < low b then 0b11 else if low b < low a then 0b01 else 0b00 := by
  simp only [cmpCode_cmpWide_valueOf, valueOf_lt_iff]
  obtain h | h | h := Nat.lt_trichotomy (high a) (high b)
  · simp [h]
  · simp [h]
  · simp [h, h.ne', h.not_gt]

/-- Settles O31: the loop's comparison is that of the values, and of the halves in turn. -/
theorem cmpAgreesWithTheNumericOrder : Obligations.CmpAgreesWithTheNumericOrder := fun s _ _ a b ha hb =>
  ⟨_, exec_cmp_valid ha hb, (s.setCmp_raise_cmp _ _).trans (cmpCode_cmpWide_valueOf a b),
    (s.setCmp_raise_cmp _ _).trans (cmpCode_cmpWide_halves a b)⟩

/-! ### The laws of an order (R83) -/

theorem cmpCode_inj {o o' : Ordering} : cmpCode o = cmpCode o' ↔ o = o' := by
  cases o <;> cases o' <;> decide

section
variable {s : State} {r q : Reg} {a b : WideInt}

theorem cmpResult_valid (ha : s.w[r.val] = some a) (hb : s.w[q.val] = some b) :
    cmpResult s r q = some (cmpCode (compare (valueOf a) (valueOf b))) := by
  rw [cmpResult, exec_cmp_valid ha hb, cmpWide_eq_compare]
  simp [Err.code]

/-- Each code stands for one outcome of the comparison, so the code says how the values compare. -/
theorem cmpResult_eq_cmpCode_iff (ha : s.w[r.val] = some a) (hb : s.w[q.val] = some b) (o : Ordering) :
    cmpResult s r q = some (cmpCode o) ↔ compare (valueOf a) (valueOf b) = o := by
  rw [cmpResult_valid ha hb, Option.some_inj, cmpCode_inj]

theorem cmpResult_equal_iff (ha : s.w[r.val] = some a) (hb : s.w[q.val] = some b) :
    cmpResult s r q = some 0b00 ↔ valueOf a = valueOf b :=
  (cmpResult_eq_cmpCode_iff ha hb .eq).trans Nat.compare_eq_eq

theorem cmpResult_greater_iff (ha : s.w[r.val] = some a) (hb : s.w[q.val] = some b) :
    cmpResult s r q = some 0b01 ↔ valueOf b < valueOf a :=
  (cmpResult_eq_cmpCode_iff ha hb .gt).trans Nat.compare_eq_gt

theorem cmpResult_less_iff (ha : s.w[r.val] = some a) (hb : s.w[q.val] = some b) :
    cmpResult s r q = some 0b11 ↔ valueOf a < valueOf b :=
  (cmpResult_eq_cmpCode_iff ha hb .lt).trans Nat.compare_eq_lt

end

/-- Settles O32: each code says how the values compare, and the values of different limbs differ. -/
theorem cmpIsATotalOrder : Obligations.CmpIsATotalOrder := by
  intro s r1 r2 r3 a b c ha hb hc
  refine ⟨?_, ?_, ?_, ?_⟩
  · rw [cmpResult_equal_iff ha hb, cmpResult_greater_iff ha hb, cmpResult_less_iff ha hb]
    omega
  · rw [cmpResult_equal_iff ha hb, valueOf_injective.eq_iff]
  · rw [cmpResult_less_iff ha hb, cmpResult_greater_iff hb ha]
  · rw [cmpResult_less_iff ha hb, cmpResult_less_iff hb hc, cmpResult_less_iff ha hc]
    exact Nat.lt_trans

end Sys2Proof.Machine
end

section
/-! The decimal codec (43_decimal_codec.md R84 to R88): what FMT leaves in TXT_OUT, what PARSE does with the text of a
number, and the two commands as inverses. -/

namespace Sys2Proof.Machine

/-- The limbs of a number are its 64-bit slices (R8). -/
theorem limbsOf_toNat (n : Nat) :
    (limbsOf n).l3.toNat = n / 2 ^ 192 % 2 ^ 64 ∧ (limbsOf n).l2.toNat = n / 2 ^ 128 % 2 ^ 64 ∧
      (limbsOf n).l1.toNat = n / 2 ^ 64 % 2 ^ 64 ∧ (limbsOf n).l0.toNat = n % 2 ^ 64 :=
  ⟨BitVec.toNat_ofNat .., BitVec.toNat_ofNat .., BitVec.toNat_ofNat .., BitVec.toNat_ofNat ..⟩

/-- Settles O33: the three equations of PARSE are the three cases, with `decval` as the sum that defines it. -/
theorem parseReadsANumeral : Obligations.ParseReadsANumeral := by
  refine fun s rd => ⟨fun ht => ?_, fun ht hl => ?_, fun ht hl => ?_⟩
  · exact ⟨_, exec_parse_invalid rd ht, State.raise_err _ _, .raise s _ (by simp)⟩
  · rw [← decval_eq_decSum] at hl
    exact ⟨_, exec_parse_tooLarge rd ht hl, State.raise_err _ _, .raise s _ (by simp)⟩
  · rw [← decval_eq_decSum] at hl ⊢
    obtain ⟨h3, h2, h1, h0⟩ := limbsOf_toNat (decval s.txtIn)
    exact ⟨_, _, exec_parse_value rd ht hl, s.writeW_raise_get rd _ .none, h3, h2, h1, h0, State.raise_err _ _,
      (CommandRule.parse ht hl).frame⟩

/-- All an FMT of a valid register does: the text of the value stands in TXT_OUT, as long as TXT_LEN says. -/
theorem exec_fmt_writes {s : State} {rs1 : Reg} {x : WideInt} (hx : s.w[rs1.val] = some x) :
    ∃ t, exec (.fmt rs1) s = .next t ∧ t.txtOut = some (padText (decText (val x))) ∧
      t.txtLen.toNat = (decText (val x)).length ∧ t.err = 0 ∧ UnchangedExcept [.txt, .err] s t :=
  ⟨_, exec_fmt_valid hx, rfl, setText_txtLen_toNat s (decText_val_length x), State.raise_err _ _,
    (CommandRule.fmt hx).frame⟩

/-- Settles O34: FMT of a valid register writes the text of its value, and an unwritten source raises UNINIT. -/
theorem fmtWritesTheShortestText : Obligations.FmtWritesTheShortestText := by
  refine fun s rs1 => ⟨fun x hx => ?_, fun hw => ?_⟩
  · obtain ⟨t, hexec, hout, hlen, herr, hframe⟩ := exec_fmt_writes hx
    have hfits := decText_val_length x
    refine ⟨t, _, hexec, hout, ?_, ?_, herr, hframe⟩
    · rw [hlen]
      exact holdsText_decText hfits
    · rw [hlen, padText_take hfits, decSum_decText, val_eq_valueOf]
  · exact ⟨_, exec_uninit (by simp [sources]) hw, State.raise_err _ _, .raise s _ (by simp)⟩

/-- PARSE of the text of a number in range writes the number's limbs. -/
theorem exec_parse_decText {s : State} (rd : Reg) {n : Nat} (ht : s.txtIn = decText n) (hn : n < 2 ^ 256) :
    exec (.parse rd) s = .next ((s.writeW rd (limbsOf n)).raise .none) := by
  have hval : decval s.txtIn = n := by rw [ht, decval_eq_decSum, decSum_decText]
  rw [exec_parse_value rd (ht ▸ decText_isNumeral n) (hval.trans_lt hn), hval]

/-- Settles O35: the characters FMT wrote are the text of the value, and the limbs PARSE writes are those of the
value. -/
theorem textCodecRoundTrips : Obligations.TextCodecRoundTrips := by
  intro s ws wd x hx
  obtain ⟨t, hexec, hout, hlen, -⟩ := exec_fmt_writes hx
  have hread : (padText (decText (val x))).toList.take t.txtLen.toNat = decText (val x) := by
    rw [hlen, padText_take (decText_val_length x)]
  refine ⟨t, _, _, hexec, hout, exec_parse_decText wd hread (val_lt x), ?_, State.raise_err _ _⟩
  rw [State.writeW_raise_get, limbsOf_val]

end Sys2Proof.Machine
end

section
/-! The control command (44_control.md R89): NOP, its one word, and the other words of its opcode. -/

namespace Sys2Proof.Machine

theorem decode_eq_nop_iff {c : CmdWord} : decode c = .ok .nop ↔ c = 0x0000 :=
  decodeExactlyInvertsEncode c .nop

/-- A bit outside the opcode lies in a field NOP does not use, or in RSV. -/
theorem wordIllegal_of_opNum_eq_zero {c : CmdWord} (hop : opNum c = 0) (hc : c ≠ 0) : WordIllegal c := by
  have hne : c.toNat ≠ 0 := BitVec.toNat_ne.1 hc
  have hbit : c.toNat / 1024 ≠ 0 ∨ rdNum c ≠ 0 ∨ rs1Num c ≠ 0 ∨ rs2Num c ≠ 0 := by
    simp only [opNum, rdNum, rs1Num, rs2Num] at hop ⊢
    omega
  obtain hrsv | hfield := hbit
  · exact .inl hrsv
  · exact .inr (.inr (.inl ⟨.inl hop, hfield⟩))

/-- Settles O17: the rule of NOP, its encoding, and the conditions (a) and (c) of R58 for opcode 0. -/
theorem nopClearsErr : Obligations.NopClearsErr :=
  ⟨fun s => ⟨_, rfl, State.raise_err s .none, CommandRule.nop.frame⟩, fun _ => decode_eq_nop_iff,
    fun _ hop hc => decode_error_iff_wordIllegal.2 (wordIllegal_of_opNum_eq_zero hop hc)⟩

end Sys2Proof.Machine
end

section
/-! Errors (60_exceptions.md R91 to R94): which word raises which error and what the error records, the order in which
causes are tested, and that ERR is written anew by every word. -/

namespace Sys2Proof.Machine

/-! ### Causes (R91) -/

/-- When a word raises an error: the table of R91, on the state before the step. Success has no cause. -/
def ErrorCause (s : State) (c : CmdWord) : Err → Prop
  | .none => False
  | .range => (∃ rd, decode c = .ok (.decomp rd) ∧ (s.bigIn < 0 ∨ 2 ^ 256 ≤ s.bigIn)) ∨
      (∃ rd, decode c = .ok (.parse rd) ∧ IsNumeral s.txtIn ∧ 2 ^ 256 ≤ decSum s.txtIn)
  | .parse => ∃ rd, decode c = .ok (.parse rd) ∧ ¬ IsNumeral s.txtIn
  | .shortRead => ∃ rd, decode c = .ok (.dec rd) ∧ s.binIn.length < 32
  | .illegal => WordIllegal c
  | .uninit => ∃ i r, decode c = .ok i ∧ r ∈ sources i ∧ s.w[r.val] = none

/-- What a command that ends with an error leaves (R94): the error alone, or with it what a short read records. -/
def State.failed (s : State) : Err → State
  | .shortRead => s.shortRead.raise .shortRead
  | e => s.raise e

theorem State.failed_eq_raise (s : State) {e : Err} (he : e ≠ .shortRead) : s.failed e = s.raise e := by
  cases e with
  | shortRead => exact absurd rfl he
  | none | range | parse | illegal | uninit => rfl

theorem State.failed_err (s : State) (e : Err) : (s.failed e).err = e.code := by
  cases e <;> exact State.raise_err _ _

theorem not_inRange_iff {v : Int} : ¬ (0 ≤ v ∧ v < 2 ^ 256) ↔ v < 0 ∨ 2 ^ 256 ≤ v := by omega

section
variable {s t : State} {c : CmdWord} {rest : List HostAction} {e : Err}

/-- Wherever its cause holds, the error is the one raised: no two causes hold of one word. -/
theorem step_of_errorCause (hp : s.pending = .issue c :: rest) (h : ErrorCause s c e) :
    step s = .next ((s.setPending rest).failed e) := by
  cases e with
  | none => exact h.elim
  | range =>
    obtain ⟨rd, hd, hv⟩ | ⟨rd, hd, ht, hl⟩ := h
    · exact (step_command hp hd).trans (exec_decomp_outOfRange rd (not_inRange_iff.2 hv))
    · rw [← decval_eq_decSum] at hl
      exact (step_command hp hd).trans (exec_parse_tooLarge rd ht hl)
  | parse =>
    obtain ⟨rd, hd, ht⟩ := h
    exact (step_command hp hd).trans (exec_parse_invalid rd ht)
  | shortRead =>
    obtain ⟨rd, hd, hlen⟩ := h
    exact (step_command hp hd).trans (exec_dec_short rd hlen)
  | illegal =>
    obtain ⟨why, hd⟩ := decode_error_iff_wordIllegal.2 h
    exact step_illegal hp hd
  | uninit =>
    obtain ⟨i, r, hd, hr, hw⟩ := h
    exact (step_command hp hd).trans (exec_uninit hr hw)

/-- A word that does not succeed has a cause of R91. -/
theorem errorCause_of_step (hp : s.pending = .issue c :: rest) (hs : step s = .next t) :
    t.err = 0 ∨ ∃ e, ErrorCause s c e := by
  cases hd : decode c with
  | error why => exact .inr ⟨.illegal, decode_error_iff_wordIllegal.1 ⟨why, hd⟩⟩
  | ok i =>
    cases commandRule_of_step hp hs hd with
    | uninit hr hw => exact .inr ⟨.uninit, _, _, hd, hr, hw⟩
    | decompOutOfRange h => exact .inr ⟨.range, .inl ⟨_, hd, not_inRange_iff.1 h⟩⟩
    | parseTooLarge h hl => exact .inr ⟨.range, .inr ⟨_, hd, h, decval_eq_decSum s.txtIn ▸ hl⟩⟩
    | parseInvalid h => exact .inr ⟨.parse, _, hd, h⟩
    | decShort h => exact .inr ⟨.shortRead, _, hd, h⟩
    | nop | range | decomp | compose | ldu64 | enc | dec | cmp | parse | fmt => exact .inl (State.raise_err _ .none)

/-- All a word can do to ERR: it succeeds, or it ends with an error whose cause holds. -/
theorem step_issue_outcome (hp : s.pending = .issue c :: rest) (hs : step s = .next t) :
    t.err = 0 ∨ ∃ e, ErrorCause s c e ∧ t = (s.setPending rest).failed e :=
  (errorCause_of_step hp hs).imp_right <| Exists.imp fun _ h =>
    ⟨h, Host.Outcome.next.inj (hs.symm.trans (step_of_errorCause hp h))⟩

/-- R91: the code of an error is left exactly where its cause holds. -/
theorem step_issue_err_iff (hp : s.pending = .issue c :: rest) (hs : step s = .next t) (he : e ≠ .none) :
    t.err = e.code ↔ ErrorCause s c e := by
  constructor
  · intro herr
    obtain h0 | ⟨e', hcause, rfl⟩ := step_issue_outcome hp hs
    · exact absurd ((Err.code_inj (e' := .none)).1 (herr.symm.trans h0)) he
    · rw [State.failed_err, Err.code_inj] at herr
      exact herr ▸ hcause
  · intro hcause
    rw [step_of_errorCause hp hcause] at hs
    cases hs
    exact State.failed_err _ e

theorem step_issue_err_le (hp : s.pending = .issue c :: rest) (hs : step s = .next t) : t.err.toNat ≤ 5 := by
  obtain h0 | ⟨e, -, rfl⟩ := step_issue_outcome hp hs
  · simp [h0]
  · exact State.failed_err _ e ▸ e.code_le

/-- R94: an error other than SHORT_READ is all that its word writes. -/
theorem step_issue_failing_err (hp : s.pending = .issue c :: rest) (hs : step s = .next t) (h0 : t.err ≠ 0)
    (h3 : t.err ≠ 3) : UnchangedExcept [.err, .pending] s t := by
  obtain h | ⟨e, -, rfl⟩ := step_issue_outcome hp hs
  · exact absurd h h0
  · have he : e ≠ .shortRead := by
      rintro rfl
      exact h3 (State.failed_err _ _)
    rw [State.failed_eq_raise _ he]
    exact (UnchangedExcept.setPending s rest (by simp)).trans (.raise _ _ (by simp))

end

/-- Settles O42: the frame of an error other than SHORT_READ, and that of any word that fails. -/
theorem failingCommandLeavesTheRest : Obligations.FailingCommandLeavesTheRest := fun _ _ _ _ hp hs =>
  ⟨step_issue_failing_err hp hs, fun h3 => step_issue_failing hp hs (by simp [h3])⟩

/-- Settles O44: one equivalence per code, the frames of O42, and the position a short read leaves. -/
theorem errorCausesAreExact : Obligations.ErrorCausesAreExact := by
  intro s t c rest hp hs
  have causes {e : Err} (he : e ≠ .none) : t.err = e.code ↔ ErrorCause s c e := step_issue_err_iff hp hs he
  refine ⟨causes (e := .range) nofun, causes (e := .parse) nofun, causes (e := .shortRead) nofun,
    causes (e := .illegal) nofun, causes (e := .uninit) nofun, step_issue_err_le hp hs,
    step_issue_failing_err hp hs, fun h3 => ⟨(step_issue_failing hp hs (by simp [h3])).mono (by simp), ?_⟩⟩
  rw [step_of_errorCause hp ((causes (e := .shortRead) nofun).1 h3)] at hs
  cases hs
  exact ⟨_, (s.setPending rest).drawAdvance_le, rfl⟩

/-- Settles O45: a cause that holds gives its error, and of the rules of DEC those of R78 alone apply. -/
theorem errorPriorityIsAsGiven : Obligations.ErrorPriorityIsAsGiven := by
  intro s t c rest hp hs
  have raised {e : Err} (he : e ≠ .none) : ErrorCause s c e → t.err = e.code := (step_issue_err_iff hp hs he).2
  refine ⟨raised (e := .illegal) nofun, fun i r hd hr hw => raised (e := .uninit) nofun ⟨i, r, hd, hr, hw⟩,
    fun rd hd ht => raised (e := .parse) nofun ⟨rd, hd, ht⟩, fun rd hd => ?_⟩
  exact (commandRule_of_step hp hs hd).dec_stream.imp And.left And.left

/-! ### ERR is not sticky (R92) -/

/-- The state with another code in ERR. -/
def State.setErr (s : State) (k : BitVec 3) : State := s.setStatus (withErr s.status k)

section
variable {s s' t : State}

/-- States that differ in ERR alone are the same up to the code. -/
theorem UnchangedExcept.eq_setErr (h : UnchangedExcept [.err] s s') : s' = s.setErr s'.err := by
  refine State.eq_of_unchanged fun x _ => ?_
  have hx : x ≠ .err → x.Same s s' := fun hne => h x (by simpa using hne)
  cases x with
  | err => exact (statusErr_withErr ..).symm
  | cmp => exact (hx nofun).trans (statusCmp_withErr ..).symm
  | rng => exact (hx nofun).trans (statusRng_withErr ..).symm
  | rsv => exact (hx nofun).trans (statusRsv_withErr ..).symm
  | _ => exact hx nofun

theorem State.setErr_setCmp (s : State) (k : BitVec 3) (o : Ordering) :
    (s.setErr k).setCmp o = (s.setCmp o).setErr k :=
  congrArg s.setStatus (by apply status_ext <;> simp [State.setErr])

theorem State.setErr_setRng (s : State) (k : BitVec 3) (b : Bool) : (s.setErr k).setRng b = (s.setRng b).setErr k :=
  congrArg s.setStatus (by apply status_ext <;> simp [State.setErr])

/-- Ending a command overwrites the code. -/
theorem State.raise_setErr (s : State) (k : BitVec 3) (e : Err) : (s.setErr k).raise e = s.raise e :=
  congrArg s.setStatus (withErr_withErr ..)

/-- The same for an outcome, so that a command's equation in the one state gives that in the other. -/
theorem ended_of_ended_setErr {o : Host.Outcome State Fault Refusal} {k : BitVec 3} {e : Err}
    (h : o = .next ((s.setErr k).raise e)) : o = .next (s.raise e) :=
  h.trans (congrArg _ (s.raise_setErr k e))

/-- The code a command finds plays no part in its rule, and what the rule leaves is ended anew. -/
theorem CommandRule.exec_setErr {i : Instr} (h : CommandRule s i t) (k : BitVec 3) :
    exec i (s.setErr k) = .next t := by
  cases h with
  | uninit hr hw => exact ended_of_ended_setErr (exec_uninit hr hw)
  | nop | ldu64 => exact ended_of_ended_setErr rfl
  | range => exact ended_of_ended_setErr (by rw [← State.setErr_setRng]; rfl)
  | decomp h => exact ended_of_ended_setErr (exec_decomp_inRange _ h)
  | decompOutOfRange h => exact ended_of_ended_setErr (exec_decomp_outOfRange _ h)
  | compose hx => exact ended_of_ended_setErr (exec_compose_valid hx)
  | enc hx => exact ended_of_ended_setErr (exec_enc_valid hx)
  | dec h => exact ended_of_ended_setErr (exec_dec_enough _ h)
  | decShort h => exact ended_of_ended_setErr (exec_dec_short _ h)
  | cmp ha hb => exact ended_of_ended_setErr (by rw [← State.setErr_setCmp]; exact exec_cmp_valid ha hb)
  | parse h hl => exact ended_of_ended_setErr (exec_parse_value _ h hl)
  | parseInvalid h => exact ended_of_ended_setErr (exec_parse_invalid _ h)
  | parseTooLarge h hl => exact ended_of_ended_setErr (exec_parse_tooLarge _ h hl)
  | fmt hx => exact ended_of_ended_setErr (exec_fmt_valid hx)

theorem exec_setErr (i : Instr) (s : State) (k : BitVec 3) : exec i (s.setErr k) = exec i s := by
  obtain ⟨t, ht, hr⟩ := exec_answers i s
  rw [ht, hr.exec_setErr k]

theorem step_setErr {c : CmdWord} {rest : List HostAction} (hp : s.pending = .issue c :: rest) (k : BitVec 3) :
    step (s.setErr k) = step s := by
  have hp' : (s.setErr k).pending = .issue c :: rest := hp
  cases hd : decode c with
  | error why =>
    rw [step_illegal hp hd, step_illegal hp' hd]
    exact congrArg _ ((s.setPending rest).raise_setErr k _)
  | ok i =>
    rw [step_command hp hd, step_command hp' hd]
    exact exec_setErr i (s.setPending rest) k

end

/-- Settles O43: the states are the same up to the code, which neither a command nor an illegal word looks at. -/
theorem errIsOverwrittenByEveryCommand : Obligations.ErrIsOverwrittenByEveryCommand := by
  intro s s' c rest hp h
  obtain ⟨t, hs, -⟩ := step_answers s
  exact ⟨h.eq_setErr ▸ step_setErr hp _, t, hs, step_issue_err_le hp hs⟩

end Sys2Proof.Machine
end

section
/-! Reset (70_reset_and_hazards.md R105, R106): the values it gives the block, and the host's side, which it leaves. -/

namespace Sys2Proof.Machine

/-! ### The values reset gives (R105) -/

theorem State.reset_atResetValues : AtResetValues State.reset := by
  unfold AtResetValues
  decide

/-- R105's table speaks of no item of the host's, and the block's items are those of `State.reset`. -/
theorem State.applyReset_atResetValues (s : State) : AtResetValues s.applyReset := State.reset_atResetValues

/-! ### What reset leaves unchanged (R106) -/

/-- The items of the block itself, with none of the host's and none of the model's own. -/
def blockItems : List StateItem :=
  [.w 0, .w 1, .w 2, .w 3, .err, .cmp, .rng, .rsv, .consumed, .encOut, .txt, .bigOut]

theorem w_mem_blockItems : ∀ r : Reg, .w r ∈ blockItems := by decide

theorem UnchangedExcept.applyReset (s : State) : UnchangedExcept blockItems s s.applyReset := by
  intro x hx
  cases x with
  | bigIn | u64In | txtIn | binIn | pending | draws => rfl
  | w r => exact absurd (w_mem_blockItems r) hx
  | err | cmp | rng | rsv | consumed | encOut | txt | bigOut => exact absurd (by decide) hx

/-- Settles O12: the equation of the reset step, the values it gives, and the frame of the block's items. -/
theorem resetLeavesTheResetState : Obligations.ResetLeavesTheResetState :=
  ⟨State.reset_atResetValues, fun s rest hp =>
    ⟨_, step_reset hp, (s.setPending rest).applyReset_atResetValues, rfl,
      (UnchangedExcept.setPending s rest (by simp)).trans
        ((UnchangedExcept.applyReset _).mono (List.subset_append_left blockItems [.pending]))⟩⟩

/-! ### The invariant -/

/-- Settles O14: no field breaks it at its reset value. -/
theorem resetMeetsStateInvariant : Obligations.ResetMeetsStateInvariant := State.reset_inv

end Sys2Proof.Machine
end
